-- ==== Sys2Proof/Word.lean ====
section
/-! DEFINITION. The fixed widths of the P256 CORE: bytes of the external encodings, 32-bit bus words, 256-bit
registers and the 512-bit accumulator (00_scope.md R6, R7; 10_state.md R20, R23). -/

namespace Sys2Proof

/-- A byte of an external encoding (00_scope.md R8). -/
abbrev Byte := BitVec 8

/-- A 32-bit bus word or control register (20_memory.md R60). -/
abbrev Word32 := BitVec 32

/-- A 256-bit register value (00_scope.md R6, `FIELD_BITS`). A 32-byte string is the same thing, read by `BE`. -/
abbrev Word256 := BitVec 256

/-- The 512-bit accumulator value (10_state.md R23). -/
abbrev Word512 := BitVec 512

/-- A 4-bit selector field of a command word (30_encoding.md R92). -/
abbrev Sel := BitVec 4

end Sys2Proof
end

