-- ==== Sys2Proof/Syntax.lean ====
section
/-! DEFINITION. The 24 commands of P256-CMD version 1, one constructor per row of the opcode table
(30_encoding.md R91, R95). -/

namespace Sys2Proof

/-- The modulus select bit `m`: 0 selects `p`, 1 selects `n` (30_encoding.md R94). -/
inductive Modulus where
  | p
  | n
  deriving DecidableEq, Repr

/-- A command with its operand fields, in the assembler's order: destination first (30_encoding.md R99).
A `Sel` operand indexes the register class that R91 gives its form. -/
inductive Instr where
  /-- `NOP` -/
  | nop
  /-- `FADD.m w[rd], w[ra], w[rb]` -/
  | fadd (m : Modulus) (rd ra rb : Sel)
  /-- `FSUB.m w[rd], w[ra], w[rb]` -/
  | fsub (m : Modulus) (rd ra rb : Sel)
  /-- `FMUL.m w[rd], w[ra], w[rb]` -/
  | fmul (m : Modulus) (rd ra rb : Sel)
  /-- `FINV.m w[rd], w[ra]` -/
  | finv (m : Modulus) (rd ra : Sel)
  /-- `FEQ.m w[ra], w[rb]` -/
  | feq (m : Modulus) (ra rb : Sel)
  /-- `MULW w[ra], w[rb]` -/
  | mulw (ra rb : Sel)
  /-- `BRED.m w[rd]` -/
  | bred (m : Modulus) (rd : Sel)
  /-- `MMUL.m w[rd], w[ra], w[rb]` -/
  | mmul (m : Modulus) (rd ra rb : Sel)
  /-- `MTOM.m w[rd], w[ra]` -/
  | mtom (m : Modulus) (rd ra : Sel)
  /-- `MFROM.m w[rd], w[ra]` -/
  | mfrom (m : Modulus) (rd ra : Sel)
  /-- `PADD pt[rd], pt[ra], pt[rb]` -/
  | padd (rd ra rb : Sel)
  /-- `PDBL pt[rd], pt[ra]` -/
  | pdbl (rd ra : Sel)
  /-- `PMUL pt[rd], pt[ra], w[rb]` -/
  | pmul (rd ra rb : Sel)
  /-- `PCHK pt[ra]` -/
  | pchk (ra : Sel)
  /-- `PLDG pt[rd]` -/
  | pldg (rd : Sel)
  /-- `IMPPRIV ks[rd], #len` -/
  | imppriv (rd : Sel) (len : Byte)
  /-- `IMPPUB kp[rd], #len` -/
  | imppub (rd : Sel) (len : Byte)
  /-- `EXPPRIV ks[ra]` -/
  | exppriv (ra : Sel)
  /-- `EXPPUB kp[ra]` -/
  | exppub (ra : Sel)
  /-- `DERIVE kp[rd], ks[ra]` -/
  | derive (rd ra : Sel)
  /-- `DISPOSE ks[rd]` -/
  | dispose (rd : Sel)
  /-- `SIGN ks[ra]` -/
  | sign (ra : Sel)
  /-- `VERIFY kp[ra], #len` -/
  | verify (ra : Sel) (len : Byte)
  deriving DecidableEq, Repr

end Sys2Proof
end

