-- ==== Sys2Proof/WellFormed.lean ====
section
/-! DEFINITION. Which commands a legal word can spell: every selector inside the range of its register class
(30_encoding.md R92). The other operands, `m` and `len`, are legal at every value (R93, R94). -/

namespace Sys2Proof

/-- A selector of the `w` class is in 0..7 (30_encoding.md R92). -/
def Sel.isW (r : Sel) : Bool := r.toNat < 8

/-- A selector of the `pt`, `ks` and `kp` classes is in 0..3 (30_encoding.md R92). -/
def Sel.isSlot (r : Sel) : Bool := r.toNat < 4

/-- The range check of every selector of a command, by the form that 30_encoding.md R91 gives it. -/
def Instr.wellFormed : Instr → Bool
  | .nop => true
  | .fadd _ rd ra rb => Sel.isW rd && Sel.isW ra && Sel.isW rb
  | .fsub _ rd ra rb => Sel.isW rd && Sel.isW ra && Sel.isW rb
  | .fmul _ rd ra rb => Sel.isW rd && Sel.isW ra && Sel.isW rb
  | .finv _ rd ra => Sel.isW rd && Sel.isW ra
  | .feq _ ra rb => Sel.isW ra && Sel.isW rb
  | .mulw ra rb => Sel.isW ra && Sel.isW rb
  | .bred _ rd => Sel.isW rd
  | .mmul _ rd ra rb => Sel.isW rd && Sel.isW ra && Sel.isW rb
  | .mtom _ rd ra => Sel.isW rd && Sel.isW ra
  | .mfrom _ rd ra => Sel.isW rd && Sel.isW ra
  | .padd rd ra rb => Sel.isSlot rd && Sel.isSlot ra && Sel.isSlot rb
  | .pdbl rd ra => Sel.isSlot rd && Sel.isSlot ra
  | .pmul rd ra rb => Sel.isSlot rd && Sel.isSlot ra && Sel.isW rb
  | .pchk ra => Sel.isSlot ra
  | .pldg rd => Sel.isSlot rd
  | .imppriv rd _ => Sel.isSlot rd
  | .imppub rd _ => Sel.isSlot rd
  | .exppriv ra => Sel.isSlot ra
  | .exppub ra => Sel.isSlot ra
  | .derive rd ra => Sel.isSlot rd && Sel.isSlot ra
  | .dispose rd => Sel.isSlot rd
  | .sign ra => Sel.isSlot ra
  | .verify ra _ => Sel.isSlot ra

end Sys2Proof
end

