-- ==== Sys2Proof/Decode.lean ====
section
/-! DEFINITION. The command decoder and encoder (30_encoding.md R90 to R97): a word is the command of a row exactly
when `(c and mask) = match`; every other word is rejected by name. -/

namespace Sys2Proof

/-- The fields of a command word (30_encoding.md R90). -/
structure Fields where
  opcode : BitVec 8
  m : Bool
  reserved : BitVec 3
  rd : Sel
  ra : Sel
  rb : Sel
  len : Byte
  deriving DecidableEq, Repr

/-- Field extraction by the bit positions of 30_encoding.md R90. -/
def Fields.ofWord (c : Word32) : Fields :=
  { opcode := c.extractLsb' 0 8
    m := c.getLsbD 8
    reserved := c.extractLsb' 9 3
    rd := c.extractLsb' 12 4
    ra := c.extractLsb' 16 4
    rb := c.extractLsb' 20 4
    len := c.extractLsb' 24 8 }

/-- The modulus that the `m` bit selects (30_encoding.md R94). -/
def Modulus.ofBit (m : Bool) : Modulus := if m then .n else .p

/-- The `m` bit of a modulus (30_encoding.md R94). -/
def Modulus.bit : Modulus → Bool
  | .p => false
  | .n => true

/-- One row of the opcode table (30_encoding.md R95). -/
structure Row where
  mnemonic : String
  pattern : Word32
  mask : Word32
  build : Fields → Instr

/-- `(c and mask) = match` (30_encoding.md R95). -/
def Row.accepts (r : Row) (c : Word32) : Bool := c &&& r.mask == r.pattern

/-- The rows of the arithmetic families, opcodes `0x00` to `0x1C` (30_encoding.md R95). -/
def arithmeticRows : List Row :=
  [ ⟨"NOP", 0x00000000#32, 0xFFFFFFFF#32, fun _ => .nop⟩,
    ⟨"FADD", 0x00000010#32, 0xFF888EFF#32, fun f => .fadd (Modulus.ofBit f.m) f.rd f.ra f.rb⟩,
    ⟨"FSUB", 0x00000011#32, 0xFF888EFF#32, fun f => .fsub (Modulus.ofBit f.m) f.rd f.ra f.rb⟩,
    ⟨"FMUL", 0x00000012#32, 0xFF888EFF#32, fun f => .fmul (Modulus.ofBit f.m) f.rd f.ra f.rb⟩,
    ⟨"FINV", 0x00000013#32, 0xFFF88EFF#32, fun f => .finv (Modulus.ofBit f.m) f.rd f.ra⟩,
    ⟨"FEQ", 0x00000014#32, 0xFF88FEFF#32, fun f => .feq (Modulus.ofBit f.m) f.ra f.rb⟩,
    ⟨"MULW", 0x00000018#32, 0xFF88FFFF#32, fun f => .mulw f.ra f.rb⟩,
    ⟨"BRED", 0x00000019#32, 0xFFFF8EFF#32, fun f => .bred (Modulus.ofBit f.m) f.rd⟩,
    ⟨"MMUL", 0x0000001A#32, 0xFF888EFF#32, fun f => .mmul (Modulus.ofBit f.m) f.rd f.ra f.rb⟩,
    ⟨"MTOM", 0x0000001B#32, 0xFFF88EFF#32, fun f => .mtom (Modulus.ofBit f.m) f.rd f.ra⟩,
    ⟨"MFROM", 0x0000001C#32, 0xFFF88EFF#32, fun f => .mfrom (Modulus.ofBit f.m) f.rd f.ra⟩ ]

/-- The rows of the point, key and signature families, opcodes `0x20` to `0x41` (30_encoding.md R95). -/
def engineRows : List Row :=
  [ ⟨"PADD", 0x00000020#32, 0xFFCCCFFF#32, fun f => .padd f.rd f.ra f.rb⟩,
    ⟨"PDBL", 0x00000021#32, 0xFFFCCFFF#32, fun f => .pdbl f.rd f.ra⟩,
    ⟨"PMUL", 0x00000022#32, 0xFF8CCFFF#32, fun f => .pmul f.rd f.ra f.rb⟩,
    ⟨"PCHK", 0x00000023#32, 0xFFFCFFFF#32, fun f => .pchk f.ra⟩,
    ⟨"PLDG", 0x00000024#32, 0xFFFFCFFF#32, fun f => .pldg f.rd⟩,
    ⟨"IMPPRIV", 0x00000030#32, 0x00FFCFFF#32, fun f => .imppriv f.rd f.len⟩,
    ⟨"IMPPUB", 0x00000031#32, 0x00FFCFFF#32, fun f => .imppub f.rd f.len⟩,
    ⟨"EXPPRIV", 0x00000032#32, 0xFFFCFFFF#32, fun f => .exppriv f.ra⟩,
    ⟨"EXPPUB", 0x00000033#32, 0xFFFCFFFF#32, fun f => .exppub f.ra⟩,
    ⟨"DERIVE", 0x00000034#32, 0xFFFCCFFF#32, fun f => .derive f.rd f.ra⟩,
    ⟨"DISPOSE", 0x00000035#32, 0xFFFFCFFF#32, fun f => .dispose f.rd⟩,
    ⟨"SIGN", 0x00000040#32, 0xFFFCFFFF#32, fun f => .sign f.ra⟩,
    ⟨"VERIFY", 0x00000041#32, 0x00FCFFFF#32, fun f => .verify f.ra f.len⟩ ]

/-- The opcode table (30_encoding.md R95). -/
def opcodeTable : List Row := arithmeticRows ++ engineRows

/-- Why a word is no command (30_encoding.md R97 lists the causes; the core reports all of them as `IllegalCommand`). -/
inductive IllegalCause where
  /-- The opcode is none of the 24 of the table. -/
  | unknownOpcode
  /-- A reserved bit 11:9 is set. -/
  | reservedBits
  /-- The `m` bit is set on a form that does not use it. -/
  | modulusBit
  /-- A field that the form does not use is not zero. -/
  | unusedField
  /-- A selector is outside the range of its register class. -/
  | selectorRange
  deriving DecidableEq, Repr

/-- A 4-bit field is wholly masked (the form does not use it) and yet not zero. -/
def unusedNibble (mask c : Word32) (lo : Nat) : Bool :=
  mask.extractLsb' lo 4 == 15#4 && c.extractLsb' lo 4 != 0#4

/-- The cause by which a word that no row accepts is rejected (30_encoding.md R97), the first that applies. -/
def illegalCause (c : Word32) : IllegalCause :=
  match opcodeTable.find? (fun r => r.pattern.extractLsb' 0 8 == c.extractLsb' 0 8) with
  | none => .unknownOpcode
  | some r =>
    if c.extractLsb' 9 3 != 0#3 then .reservedBits
    else if c.getLsbD 8 && r.mask.getLsbD 8 then .modulusBit
    else if unusedNibble r.mask c 12 || unusedNibble r.mask c 16 || unusedNibble r.mask c 20
        || (r.mask.getLsbD 24 && c.extractLsb' 24 8 != 0#8) then .unusedField
    else .selectorRange

/-- The decoder, total on all `2^32` words (30_encoding.md R96). -/
def decode (c : Word32) : Except IllegalCause Instr :=
  match opcodeTable.find? (fun r => r.accepts c) with
  | some r => .ok (r.build (Fields.ofWord c))
  | none => .error (illegalCause c)

/-- The command word of its fields, most significant field first, reserved bits 11:9 zero (30_encoding.md R90). -/
def assemble (opcode : BitVec 8) (m : Bool) (rd ra rb : Sel) (len : Byte) : Word32 :=
  len ++ rb ++ ra ++ rd ++ 0#3 ++ BitVec.ofBool m ++ opcode

/-- The word of a command (30_encoding.md R90, R91, R95). -/
def encode : Instr → Word32
  | .nop => assemble 0x00#8 false 0 0 0 0
  | .fadd m rd ra rb => assemble 0x10#8 m.bit rd ra rb 0
  | .fsub m rd ra rb => assemble 0x11#8 m.bit rd ra rb 0
  | .fmul m rd ra rb => assemble 0x12#8 m.bit rd ra rb 0
  | .finv m rd ra => assemble 0x13#8 m.bit rd ra 0 0
  | .feq m ra rb => assemble 0x14#8 m.bit 0 ra rb 0
  | .mulw ra rb => assemble 0x18#8 false 0 ra rb 0
  | .bred m rd => assemble 0x19#8 m.bit rd 0 0 0
  | .mmul m rd ra rb => assemble 0x1A#8 m.bit rd ra rb 0
  | .mtom m rd ra => assemble 0x1B#8 m.bit rd ra 0 0
  | .mfrom m rd ra => assemble 0x1C#8 m.bit rd ra 0 0
  | .padd rd ra rb => assemble 0x20#8 false rd ra rb 0
  | .pdbl rd ra => assemble 0x21#8 false rd ra 0 0
  | .pmul rd ra rb => assemble 0x22#8 false rd ra rb 0
  | .pchk ra => assemble 0x23#8 false 0 ra 0 0
  | .pldg rd => assemble 0x24#8 false rd 0 0 0
  | .imppriv rd len => assemble 0x30#8 false rd 0 0 len
  | .imppub rd len => assemble 0x31#8 false rd 0 0 len
  | .exppriv ra => assemble 0x32#8 false 0 ra 0 0
  | .exppub ra => assemble 0x33#8 false 0 ra 0 0
  | .derive rd ra => assemble 0x34#8 false rd ra 0 0
  | .dispose rd => assemble 0x35#8 false rd 0 0 0
  | .sign ra => assemble 0x40#8 false 0 ra 0 0
  | .verify ra len => assemble 0x41#8 false 0 ra 0 len

/-- What the decoder reads from a command whose bits are `w`, numbered as the opcode table numbers them: bit 0 is the
least significant bit of the one 32-bit word of `CMD`, which is a number and not a byte string (20_memory.md R66). -/
def decodeTableWord (nbits w : Nat) : Option Instr :=
  (decode (BitVec.ofNat 32 (w % 2 ^ nbits))).toOption

end Sys2Proof
end

