-- ==== Sys2Proof/Config.lean ====
section
/-! DEFINITION. What one implementation of the core fixes (00_scope.md R6): the curve constants, the identification
value, the tag byte, the constants of the Montgomery unit; and the open parameters as constants without a body. -/

namespace Sys2Proof

/-- The field prime `p` (10_state.md R40). -/
def Config.p : Nat := 0xFFFFFFFF00000001000000000000000000000000FFFFFFFFFFFFFFFFFFFFFFFF

/-- The group order `n` (10_state.md R40). -/
def Config.n : Nat := 0xFFFFFFFF00000000FFFFFFFFFFFFFFFFBCE6FAADA7179E84F3B9CAC2FC632551

/-- The curve coefficient `a = p - 3` (10_state.md R40). -/
def Config.a : Nat := 0xFFFFFFFF00000001000000000000000000000000FFFFFFFFFFFFFFFFFFFFFFFC

/-- The curve coefficient `b` (10_state.md R40). -/
def Config.b : Nat := 0x5AC635D8AA3A93E7B3EBBD55769886BC651D06B0CC53B0F63BCE3C3E27D2604B

/-- The x-coordinate of the base point `G` (10_state.md R40). -/
def Config.gx : Nat := 0x6B17D1F2E12C4247F8BCE6E563A440F277037D812DEB33A0F4A13945D898C296

/-- The y-coordinate of the base point `G` (10_state.md R40). -/
def Config.gy : Nat := 0x4FE342E2FE1A7F9B8EE7EB4A7C0F9E162BCE33576B315ECECBB6406837BF51F5

/-- The value `ID` reads (10_state.md R33). -/
def Config.id : Word32 := 0x50323536#32

/-- The tag byte of the uncompressed public key form (43_key_material.md R193). -/
def Config.tag : Byte := 0x04#8

/-- The Montgomery radix `R = 2^256` (41_montgomery_barrett.md R140). -/
def Config.radix : Nat := 2 ^ 256

/-- `Rinv(p)` (41_montgomery_barrett.md R141). -/
def Config.rInvP : Nat := 0xFFFFFFFE00000003FFFFFFFD0000000200000001FFFFFFFE0000000300000000

/-- `Rinv(n)` (41_montgomery_barrett.md R141). -/
def Config.rInvN : Nat := 0x60D066334905C1E907F8B6041E607725BADEF3E243566FAFCE1BC8F79C197C79

/-- `M' = (-M^-1) mod 2^256` for `p` (41_montgomery_barrett.md R141). -/
def Config.negInvP : Nat := 0xFFFFFFFF00000002000000000000000000000001000000000000000000000001

/-- `M' = (-M^-1) mod 2^256` for `n` (41_montgomery_barrett.md R141). -/
def Config.negInvN : Nat := 0x60D06633A9D6281C50FE77ECC588C6F648C944087D74D2E4CCD1C8AAEE00BC4F

/-- The open parameter `BASE`, where the window sits in the host's map: no rule depends on it
(20_memory.md R61; notes/assumptions/3). -/
opaque Config.base : Nat

/-- The open parameter `DetNonce(d, digest, t)`: any total function of a private scalar, a 32-byte digest and a
candidate index (44_nonce_source.md R224; notes/assumptions/4). -/
opaque Config.detNonce : Word256 → Word256 → Nat → Word256

/-- FREE VALUE. What the pseudocode `Q.x` would be for `Q = INF`, a case the spec says cannot arise on a reachable
state (43_key_material.md R201, 45_ecdsa.md R244; notes/assumptions/5). -/
opaque Config.xOfInfinity : Word256

/-- FREE VALUE. What the pseudocode `Q.y` would be for `Q = INF` (43_key_material.md R201; notes/assumptions/5). -/
opaque Config.yOfInfinity : Word256

end Sys2Proof
end

