-- ==== Sys2Proof/Machine/State.lean ====
section
/-! DEFINITION. The machine's state as plain data: every register, slot and buffer of 10_state.md, and the parts of the
world outside the core that a step reads (00_scope.md R12). -/

namespace Sys2Proof.Machine

/-- A point register `{x, y, inf}` (10_state.md R24). -/
structure PointReg where
  x : Word256
  y : Word256
  inf : Bool
  deriving DecidableEq, Repr

/-- A private key slot `{d, valid}` (10_state.md R27). -/
structure PrivSlot where
  d : Word256
  valid : Bool
  deriving DecidableEq, Repr

/-- A public key slot `{x, y, valid}` (10_state.md R29). -/
structure PubSlot where
  x : Word256
  y : Word256
  valid : Bool
  deriving DecidableEq, Repr

/-- The sequencer (10_state.md R31). `STATUS.BUSY` is read from it. -/
inductive Seq where
  | idle
  | busy
  deriving DecidableEq, Repr

/-- The stored fields of `STATUS` (10_state.md R35); `BUSY` is the sequencer's, reserved bits are zero. -/
structure Status where
  done : Bool
  err : Bool
  wrdrop : Bool
  errcode : BitVec 8
  deriving DecidableEq, Repr

/-- The fields of `FLAGS` (10_state.md R36). -/
structure Flags where
  eq : Bool
  inf : Bool
  ok : Bool
  deriving DecidableEq, Repr

/-- The fields of `INTEN` (10_state.md R38). -/
structure Inten where
  doneIe : Bool
  errIe : Bool
  deriving DecidableEq, Repr

/-- The buffer bytes (`DIGBUF`, `SIGBUF`, `KEYBUF`, 10_state.md R32) by window offset, in one canonical form: offsets
rising, and no entry equal to what an unlisted offset reads as. -/
abbrev Memory := List Host.Cell

/-- An answer of the entropy source to one `EntropyRead` (44_nonce_source.md R222). The 32 bytes are held as the number
`BE` reads from them. -/
inductive EntropyAnswer where
  | ok (bytes : Word256)
  | fail
  deriving DecidableEq, Repr

/-- What the entropy source does once the answers it has ready are used up (notes/assumptions/6). -/
inductive EntropyTail where
  /-- Its timeout expires: every further request is answered `Fail` (44_nonce_source.md R222). -/
  | timesOut
  /-- It gives no further answer, so a request waits (44_nonce_source.md R229; 93_implementation_defined.md U10). -/
  | silent
  deriving DecidableEq, Repr

/-- The entropy oracle (44_nonce_source.md R222): the answers it will give, in order, and what follows them; whether a
`SIGN` waits for an answer; and how many requests a reset has abandoned, whose answers are discarded if they come
(70_reset_and_hazards.md R322; notes/assumptions/6). -/
structure EntropySource where
  answers : List EntropyAnswer
  whenEmpty : EntropyTail
  outstanding : Bool
  abandoned : Nat
  deriving DecidableEq, Repr

/-- One access of the host on the window: a byte offset, a width in bytes, and the value of a write. A write of another
width than four is refused before its value is looked at (20_memory.md R63, R64, R70). -/
inductive HostAccess where
  | read (off width : Nat)
  | write (off width : Nat) (value : Word32)
  deriving DecidableEq, Repr

/-- What the host port answers to an access (20_memory.md R63, R64, R70). -/
inductive HostResponse where
  | data (value : Word32)
  | written
  | busError
  deriving DecidableEq, Repr

/-- Whose step comes next (00_scope.md R12; notes/assumptions/2). -/
inductive Turn where
  /-- The host performs one access. -/
  | host (access : HostAccess)
  /-- The engine takes its step. -/
  | engine
  /-- The entropy source makes one more answer ready. -/
  | entropySource (answer : EntropyAnswer)
  /-- The reset input is asserted and released (70_reset_and_hazards.md R320). -/
  | hardwareReset
  deriving DecidableEq, Repr

/-- MODEL'S OWN STATE, not the core's (10_state.md R44): the turns still to come, the entropy oracle, and the last answer
of the host port. When `agenda` is empty the engine has the turn. -/
structure Environment where
  agenda : List Turn
  entropy : EntropySource
  response : Option HostResponse
  deriving DecidableEq, Repr

/-- The whole machine: the state of 10_state.md R20 to R39, and its environment. -/
structure State where
  /-- General registers (R20). -/
  w : Vector Word256 8
  /-- The accumulator `ACC` (R23). -/
  acc : Word512
  /-- Point registers, `PTINF` among them (R24, R26). -/
  pt : Vector PointReg 4
  /-- Private key slots (R27). -/
  ks : Vector PrivSlot 4
  /-- Public key slots (R29). -/
  kp : Vector PubSlot 4
  /-- The three byte buffers (R32). -/
  mem : Memory
  /-- The sequencer `SEQ` (R31). -/
  seq : Seq
  /-- The command latch `CMDLATCH`, read through `CMD` (R31, R34). -/
  cmdLatch : Word32
  /-- `STATUS` (R35). -/
  status : Status
  /-- `FLAGS` (R36). -/
  flags : Flags
  /-- `CFG.NONCE_MODE` (R37). -/
  nonceMode : BitVec 2
  /-- `INTEN` (R38). -/
  inten : Inten
  /-- The model's own part. -/
  env : Environment
  deriving DecidableEq, Repr

/-- The errors a command can end with (60_exceptions.md R284). -/
inductive CommandError where
  | invalidKeyLength
  | invalidScalarRange
  | pointNotOnCurve
  | invalidSubgroup
  | invalidOperand
  | malformedSignature
  | entropyUnavailable
  | illegalCommand
  | keyNotValid
  | nonceModeUnselected
  | invalidKeyFormat
  deriving DecidableEq, Repr

/-- The machine never stops with a fault: "Nothing in the core is unpredictable" (93_implementation_defined.md, part 1),
an error ends a command and is reported in `STATUS` (60_exceptions.md R283), and a refused access is answered with
`BusError` (20_memory.md R70). So the type has no constructor, and nothing raises one (safe). -/
inductive Fault where
  deriving DecidableEq, Repr

/-- The machine refuses no command of the opcode table. -/
inductive Refusal where
  /-- Raised by `exec` alone, for a command that has no meaning yet; no arm raises it (safe). -/
  | notModelled (mnemonic : String)
  deriving DecidableEq, Repr

/-- An outcome of one step. -/
abbrev Result := Host.Outcome State Fault Refusal

/-- The environment right after reset: nothing scheduled, no entropy answer ready, no access made yet
(DESIGN CHOICE, notes/assumptions/2 and 6). -/
def Environment.reset : Environment :=
  { agenda := [], response := none
    entropy := { answers := [], whenEmpty := .timesOut, outstanding := false, abandoned := 0 } }

/-- The machine right after reset: the table of 10_state.md R45. -/
def State.reset : State :=
  { w := Vector.replicate 8 0#256
    acc := 0#512
    pt := Vector.replicate 4 { x := 0#256, y := 0#256, inf := true }
    ks := Vector.replicate 4 { d := 0#256, valid := false }
    kp := Vector.replicate 4 { x := 0#256, y := 0#256, valid := false }
    mem := []
    seq := .idle
    cmdLatch := 0#32
    status := { done := false, err := false, wrdrop := false, errcode := 0#8 }
    flags := { eq := false, inf := false, ok := false }
    nonceMode := 0#2
    inten := { doneIe := false, errIe := false }
    env := Environment.reset }

end Sys2Proof.Machine
end

