-- ==== Sys2Proof/Machine/Flags.lean ====
section
/-! DEFINITION. Every flag the core computes, and the words the status registers read as
(10_state.md R35 to R38, R46). -/

namespace Sys2Proof.Machine

/-- All three flags clear, as acceptance leaves them (60_exceptions.md R280). -/
def flagsClear : Flags := { eq := false, inf := false, ok := false }

/-- `FLAGS.EQ <- b` (40_field_arithmetic.md R127). -/
def State.setEq (s : State) (b : Bool) : State := { s with flags := { s.flags with eq := b } }

/-- `FLAGS.INF <- b` (42_point_arithmetic.md R166). -/
def State.setInf (s : State) (b : Bool) : State := { s with flags := { s.flags with inf := b } }

/-- `FLAGS.OK <- b` (45_ecdsa.md R250). -/
def State.setOk (s : State) (b : Bool) : State := { s with flags := { s.flags with ok := b } }

/-- `STATUS.BUSY`, which is 1 exactly when the sequencer is `BUSY` (10_state.md R31). -/
def State.busy (s : State) : Bool := s.seq == .busy

/-- The word `STATUS` reads (10_state.md R35): reserved bits 7:4 and 31:16 are zero. -/
def State.statusWord (s : State) : Word32 :=
  0#16 ++ s.status.errcode ++ 0#4 ++ BitVec.ofBool s.status.wrdrop ++ BitVec.ofBool s.status.err ++
    BitVec.ofBool s.status.done ++ BitVec.ofBool s.busy

/-- The word `FLAGS` reads (10_state.md R36). -/
def State.flagsWord (s : State) : Word32 :=
  0#29 ++ BitVec.ofBool s.flags.ok ++ BitVec.ofBool s.flags.inf ++ BitVec.ofBool s.flags.eq

/-- The word `CFG` reads (10_state.md R37). -/
def State.cfgWord (s : State) : Word32 := 0#30 ++ s.nonceMode

/-- The word `INTEN` reads (10_state.md R38). -/
def State.intenWord (s : State) : Word32 :=
  0#30 ++ BitVec.ofBool s.inten.errIe ++ BitVec.ofBool s.inten.doneIe

/-- The word `PTINF` reads: bit `j` is `pt[j].inf` (10_state.md R26). -/
def State.ptinfWord (s : State) : Word32 :=
  0#28 ++ BitVec.ofBool s.pt[3].inf ++ BitVec.ofBool s.pt[2].inf ++ BitVec.ofBool s.pt[1].inf ++
    BitVec.ofBool s.pt[0].inf

/-- The output `irq`, a function of state (10_state.md R46; 60_exceptions.md R300). -/
def State.irq (s : State) : Bool :=
  (s.status.done && s.inten.doneIe) || (s.status.err && s.inten.errIe)

end Sys2Proof.Machine
end

