-- ==== Sys2Proof/Machine/Modular.lean ====
section
/-! DEFINITION. Arithmetic modulo `p` and `n` on integers: exact, then reduced to the least non-negative residue
(40_field_arithmetic.md R120 to R128; 41_montgomery_barrett.md R140 to R150). -/

namespace Sys2Proof.Machine

/-- `M(m)` (00_scope.md R9; 30_encoding.md R94). -/
def modulus : Modulus → Nat
  | .p => Config.p
  | .n => Config.n

/-- `v mod m`, in `[0, m)` also when `v` is negative (00_scope.md R7). -/
def residue (v : Int) (m : Nat) : Nat := (v % (m : Int)).toNat

/-- The sum of `FADD` (40_field_arithmetic.md R122). -/
def addMod (m a b : Nat) : Nat := (a + b) % m

/-- The difference of `FSUB` (40_field_arithmetic.md R123). -/
def subMod (m a b : Nat) : Nat := residue ((a : Int) - (b : Int)) m

/-- The product of `FMUL` (40_field_arithmetic.md R124). -/
def mulMod (m a b : Nat) : Nat := (a * b) % m

/-- `b^e mod m` by square and multiply over the low `k` bits of `e`, most significant first. -/
def powMod (m b : Nat) : Nat → Nat → Nat
  | 0, _ => 1 % m
  | k + 1, e =>
    let h := powMod m b k (e / 2)
    if e % 2 = 1 then h * h % m * b % m else h * h % m

/-- `inv(a, m) = a^(m-2) mod m` (40_field_arithmetic.md R126). -/
def inv (a m : Nat) : Nat := powMod m a 256 (m - 2)

/-- `Rinv(M)` (41_montgomery_barrett.md R140, R141). -/
def radixInv : Modulus → Nat
  | .p => Config.rInvP
  | .n => Config.rInvN

/-- The Montgomery product `MontMul(a, b, M)` (41_montgomery_barrett.md R140). -/
def montMul (m : Modulus) (a b : Nat) : Nat := (a * b * radixInv m) % modulus m

/-- Conversion to Montgomery form (41_montgomery_barrett.md R148). -/
def toMont (m : Modulus) (a : Nat) : Nat := (a * Config.radix) % modulus m

/-- Conversion from Montgomery form (41_montgomery_barrett.md R149). -/
def fromMont (m : Modulus) (a : Nat) : Nat := (a * radixInv m) % modulus m

/-- The constant `mu = floor(2^512 / M)` of the Barrett reducer (41_montgomery_barrett.md R141). -/
def barrettMu (m : Nat) : Nat := 2 ^ 512 / m

/-- One corrective subtraction (41_montgomery_barrett.md R145, R150). -/
def correct (m r : Nat) : Nat := if m ≤ r then r - m else r

/-- The Barrett method for `x mod M` (41_montgomery_barrett.md R145). `BRED` is defined by its result; this is how the
unit obtains it. -/
def barrettReduce (m x : Nat) : Nat :=
  let q1 := x / 2 ^ 255
  let q3 := q1 * barrettMu m / 2 ^ 257
  correct m (correct m (x - q3 * m))

/-- `M' = (-M^-1) mod 2^256` (41_montgomery_barrett.md R141). -/
def negInv : Modulus → Nat
  | .p => Config.negInvP
  | .n => Config.negInvN

/-- The Montgomery reduction of a double-width product (41_montgomery_barrett.md R150). `MMUL` is defined by its result;
this is how the unit obtains it. -/
def montReduce (m : Modulus) (t : Nat) : Nat :=
  let u := t % Config.radix * negInv m % Config.radix
  correct (modulus m) ((t + u * modulus m) / Config.radix)

end Sys2Proof.Machine
end

