-- ==== Sys2Proof/Machine/Curve.lean ====
section
/-! DEFINITION. The curve and its group: `oncurve`, `padd`, `pdbl`, `pmul`, `validate`
(42_point_arithmetic.md R160 to R176). Coordinates are integers; a register's 256 bits are read as one. -/

namespace Sys2Proof.Machine

/-- A point: the point at infinity or an affine pair (42_point_arithmetic.md R160). -/
inductive CurvePoint where
  | inf
  | affine (x y : Nat)
  deriving DecidableEq, Repr

/-- The base point `G` (10_state.md R40). -/
def basePoint : CurvePoint := .affine Config.gx Config.gy

/-- Both coordinates are reduced modulo `p` (42_point_arithmetic.md R161). -/
def coordsReduced (x y : Nat) : Bool := x < Config.p && y < Config.p

/-- The curve equation `y^2 = x^3 + a*x + b (mod p)` (42_point_arithmetic.md R161). -/
def curveEquation (x y : Nat) : Bool :=
  (y * y) % Config.p == (x * x * x + Config.a * x + Config.b) % Config.p

/-- `oncurve(x, y)` (42_point_arithmetic.md R161). -/
def onCurve (x y : Nat) : Bool := coordsReduced x y && curveEquation x y

/-- A point of the curve: `INF`, or a pair with `oncurve` (42_point_arithmetic.md R160). -/
def CurvePoint.valid : CurvePoint → Bool
  | .inf => true
  | .affine x y => onCurve x y

/-- The negative of a point (42_point_arithmetic.md R160). -/
def CurvePoint.neg : CurvePoint → CurvePoint
  | .inf => .inf
  | .affine x y => .affine x ((Config.p - y) % Config.p)

/-- The slope `L`: tangent when `x1 = x2`, else chord (42_point_arithmetic.md R162). -/
def slope (x1 y1 x2 y2 : Nat) : Nat :=
  if x1 = x2 then (3 * x1 * x1 + Config.a) * inv ((2 * y1) % Config.p) Config.p % Config.p
  else subMod Config.p y2 y1 * inv (subMod Config.p x2 x1) Config.p % Config.p

/-- The third point of a line of slope `l` through two affine points, reflected (42_point_arithmetic.md R162). -/
def lineSum (l x1 y1 x2 : Nat) : CurvePoint :=
  let x3 := residue ((l : Int) * l - x1 - x2) Config.p
  .affine x3 (residue ((l : Int) * ((x1 : Int) - x3) - y1) Config.p)

/-- `padd(P, Q)`, the group law (42_point_arithmetic.md R162). -/
def padd : CurvePoint → CurvePoint → CurvePoint
  | .inf, q => q
  | .affine x1 y1, .inf => .affine x1 y1
  | .affine x1 y1, .affine x2 y2 =>
    if x1 = x2 ∧ (y1 + y2) % Config.p = 0 then .inf
    else lineSum (slope x1 y1 x2 y2) x1 y1 x2

/-- `pdbl(P) = padd(P, P)` (42_point_arithmetic.md R163). -/
def pdbl (p : CurvePoint) : CurvePoint := padd p p

/-- The Montgomery ladder from bit `i - 1` of the scalar down to bit 0 (42_point_arithmetic.md R172). -/
def ladder (k : Nat) : Nat → CurvePoint → CurvePoint → CurvePoint
  | 0, t0, _ => t0
  | i + 1, t0, t1 =>
    if k.testBit i then ladder k i (padd t0 t1) (pdbl t1)
    else ladder k i (pdbl t0) (padd t0 t1)

/-- `pmul(k, P)`: 256 iterations, most significant bit first (42_point_arithmetic.md R172). -/
def pmul (k : Nat) (p : CurvePoint) : CurvePoint := ladder k 256 .inf p

/-- The outcome of point validation (42_point_arithmetic.md R176). -/
inductive Validity where
  | valid
  | pointNotOnCurve
  | invalidSubgroup
  deriving DecidableEq, Repr

/-- `validate(x, y)`, its checks in the order of 42_point_arithmetic.md R176. -/
def validate (x y : Nat) : Validity :=
  if coordsReduced x y = false then .pointNotOnCurve
  else if curveEquation x y = false then .pointNotOnCurve
  else if pmul Config.n (.affine x y) ≠ .inf then .invalidSubgroup
  else .valid

/-- `Q.x` (45_ecdsa.md R244). Where the spec relies on `Q` not being `INF`, the coordinate of `INF` is a free value
(notes/assumptions/5). -/
def CurvePoint.xCoord : CurvePoint → Nat
  | .inf => Config.xOfInfinity.toNat
  | .affine x _ => x

/-- `Q.y` (43_key_material.md R201), with the same free value for `INF`. -/
def CurvePoint.yCoord : CurvePoint → Nat
  | .inf => Config.yOfInfinity.toNat
  | .affine _ y => y

end Sys2Proof.Machine
end

