-- ==== Sys2Proof/Machine/Bytes.lean ====
section
/-! DEFINITION. Byte strings, integers and bus lanes (00_scope.md R8; 20_memory.md R65, R66). -/

namespace Sys2Proof.Machine

/-- Byte `i` of the big-endian byte string of a register of `n` bits: byte 0 is the most significant
(20_memory.md R65). -/
def beByte {n : Nat} (v : BitVec n) (i : Nat) : Byte :=
  v.extractLsb' (n - 8 - 8 * i) 8

/-- The register whose big-endian byte string has byte `i` replaced (20_memory.md R64, R65). -/
def setBeByte {n : Nat} (v : BitVec n) (i : Nat) (b : Byte) : BitVec n :=
  (v &&& ~~~((0xFF#8).setWidth n <<< (n - 8 - 8 * i))) ||| (b.setWidth n <<< (n - 8 - 8 * i))

/-- `BE(b[0], ..., b[k-1])`, the integer a byte string stands for (00_scope.md R8). -/
def beNat (bs : List Byte) : Nat :=
  bs.foldl (fun acc b => acc * 256 + b.toNat) 0

/-- `BE32(v)`, the 32-byte string of a 256-bit value (00_scope.md R8). -/
def be32 (v : Word256) : List Byte :=
  (List.range 32).map (beByte v)

/-- `lanes(b0, b1, b2, b3)`: the byte at the lowest offset travels in bits 7:0 (20_memory.md R66). -/
def lanes (b0 b1 b2 b3 : Byte) : Word32 :=
  b3 ++ b2 ++ b1 ++ b0

/-- The byte that lane `i` of a bus word carries (20_memory.md R64, R66). -/
def laneByte (v : Word32) (i : Nat) : Byte :=
  v.extractLsb' (8 * i) 8

end Sys2Proof.Machine
end

