-- ==== Sys2Proof/Machine/Memory.lean ====
section
/-! DEFINITION. The operations over the buffer bytes: one read, one write, and the strings built from them
(10_state.md R32; 20_memory.md R62). -/

namespace Sys2Proof.Machine

/-- The offset of `DIGBUF[0]` (10_state.md R32). -/
def digBase : Nat := 0x080
/-- The offset of `SIGBUF[0]` (10_state.md R32). -/
def sigBase : Nat := 0x0C0
/-- The offset of `KEYBUF[0]` (10_state.md R32). -/
def keyBase : Nat := 0x100

/-- The offsets of the three buffers (20_memory.md R62): `DIGBUF` 32 bytes, `SIGBUF` 64, `KEYBUF` 68. -/
abbrev inBuffer (o : Nat) : Prop :=
  (0x080 ≤ o ∧ o < 0x0A0) ∨ (0x0C0 ≤ o ∧ o < 0x144)

/-- What a buffer byte reads as when nothing has written it: the reset value "all bytes 0" (10_state.md R45). -/
def unwrittenByte : Byte := 0#8

/-- The byte at an offset. -/
def Memory.read : Memory → Nat → Byte
  | [], _ => unwrittenByte
  | (k, v) :: rest, a => if k = a then v else Memory.read rest a

/-- Storing a byte at an offset, keeping the canonical form: storing what an unlisted offset reads as removes the
entry. -/
def Memory.write : Memory → Nat → Byte → Memory
  | [], a, b => if b = unwrittenByte then [] else [(a, b)]
  | (k, v) :: rest, a, b =>
    if k < a then (k, v) :: Memory.write rest a b
    else if b = unwrittenByte then (if k = a then rest else (k, v) :: rest)
    else if k = a then (a, b) :: rest
    else (a, b) :: (k, v) :: rest

/-- The canonical form: offsets strictly rising, each in a buffer, no entry that an unlisted offset would read as. -/
abbrev Memory.wf (m : Memory) : Prop :=
  m.Pairwise (fun c d => c.1 < d.1) ∧ ∀ c ∈ m, inBuffer c.1 ∧ c.2 ≠ unwrittenByte

/-- Storing a byte string from an offset upward. -/
def Memory.writeBytes (m : Memory) (a : Nat) : List Byte → Memory
  | [] => m
  | b :: bs => Memory.writeBytes (Memory.write m a b) (a + 1) bs

/-- The byte string of `k` bytes from an offset upward. -/
def Memory.readBytes (m : Memory) (a k : Nat) : List Byte :=
  (List.range k).map (fun i => Memory.read m (a + i))

/-- The integer `BE` of `k` bytes from an offset upward (00_scope.md R8). -/
def Memory.readNat (m : Memory) (a k : Nat) : Nat :=
  beNat (Memory.readBytes m a k)

end Sys2Proof.Machine
end

