-- ==== Sys2Proof/Machine/Operands.lean ====
section
/-! DEFINITION. Every operand form of the command set: selectors, reduced `w` operands, point operands, valid key slots,
and the buffers (30_encoding.md R91 to R93). An operand either yields its value or the error that ends the command. -/

namespace Sys2Proof.Machine

/-- The value of an operand, or the error its check raises. -/
abbrev Checked (α : Type) := Except CommandError α

/-- `raise e` when the condition holds (00_scope.md R9). -/
def raiseIf (c : Prop) [Decidable c] (e : CommandError) : Checked Unit :=
  if c then .error e else .ok ()

/-- A selector of the `w` class (30_encoding.md R92). A selector out of range makes the command illegal (R97); no word
decodes to one. -/
def wSel (r : Sel) : Checked (Fin 8) :=
  if h : r.toNat < 8 then .ok ⟨r.toNat, h⟩ else .error .illegalCommand

/-- A selector of the `pt`, `ks` and `kp` classes (30_encoding.md R92, R97). -/
def slotSel (r : Sel) : Checked (Fin 4) :=
  if h : r.toNat < 4 then .ok ⟨r.toNat, h⟩ else .error .illegalCommand

/-- A `w` operand taken modulo `M(m)`: it must be reduced (40_field_arithmetic.md R121). -/
def reducedOperand (m : Modulus) (v : Word256) : Checked Nat :=
  if v.toNat < modulus m then .ok v.toNat else .error .invalidOperand

/-- What a point register represents: `INF` if `inf = 1`, whatever the coordinates hold (10_state.md R24). -/
def PointReg.point (r : PointReg) : CurvePoint :=
  if r.inf then .inf else .affine r.x.toNat r.y.toNat

/-- A point operand: `INF`, or a pair on the curve (42_point_arithmetic.md R164). -/
def pointOperand (r : PointReg) : Checked CurvePoint :=
  if r.point.valid then .ok r.point else .error .pointNotOnCurve

/-- The scalar of a private key slot that must be valid (43_key_material.md R204). -/
def privOperand (k : PrivSlot) : Checked Word256 :=
  if k.valid then .ok k.d else .error .keyNotValid

/-- The coordinates of a public key slot that must be valid (43_key_material.md R204). -/
def pubOperand (k : PubSlot) : Checked (Word256 × Word256) :=
  if k.valid then .ok (k.x, k.y) else .error .keyNotValid

/-- Point validation as a check that raises (42_point_arithmetic.md R177; 43_key_material.md R195). -/
def validated (x y : Nat) : Checked Unit :=
  match validate x y with
  | .valid => .ok ()
  | .pointNotOnCurve => .error .pointNotOnCurve
  | .invalidSubgroup => .error .invalidSubgroup

/-- `BE(DIGBUF[0..31])` (45_ecdsa.md R240). -/
def State.digest (s : State) : Nat := Memory.readNat s.mem digBase 32

/-- `e = BE(DIGBUF[0..31]) mod n` (45_ecdsa.md R240). -/
def State.digestScalar (s : State) : Nat := s.digest % Config.n

/-- `BE(SIGBUF[0..31])` (45_ecdsa.md R242). -/
def State.sigR (s : State) : Nat := Memory.readNat s.mem sigBase 32

/-- `BE(SIGBUF[32..63])` (45_ecdsa.md R242). -/
def State.sigS (s : State) : Nat := Memory.readNat s.mem (sigBase + 32) 32

end Sys2Proof.Machine
end

