-- ==== Sys2Proof/Machine/Nonce.lean ====
section
/-! DEFINITION. The nonce source and the retry loop of `SIGN` (44_nonce_source.md; 45_ecdsa.md R244, R246). The loop has
no bound (90_conflicts.md C4). -/

namespace Sys2Proof.Machine

/-- The two nonce strategies (44_nonce_source.md R220). -/
inductive NonceStrategy where
  | random
  | deterministic
  deriving DecidableEq, Repr

/-- The strategy that `CFG.NONCE_MODE` selects: 0 and 3 select none (44_nonce_source.md R221). -/
def nonceStrategy (mode : BitVec 2) : Checked NonceStrategy :=
  if mode = 1#2 then .ok .random
  else if mode = 2#2 then .ok .deterministic
  else .error .nonceModeUnselected

/-- One more answer comes from the source; the answer of an abandoned request is discarded
(44_nonce_source.md R222; 70_reset_and_hazards.md R322). -/
def EntropySource.supply (e : EntropySource) (a : EntropyAnswer) : EntropySource :=
  if e.abandoned = 0 then { e with answers := e.answers ++ [a] } else { e with abandoned := e.abandoned - 1 }

/-- The answers left after a `SIGN` has used some up; no request is outstanding then (44_nonce_source.md R222). -/
def EntropySource.consume (e : EntropySource) (left : List EntropyAnswer) : EntropySource :=
  { e with answers := left, outstanding := false }

/-- A `SIGN` has used up every answer that came and waits for one more (44_nonce_source.md R229). -/
def EntropySource.await (e : EntropySource) : EntropySource := { e with answers := [], outstanding := true }

/-- A reset abandons an outstanding entropy request: its answer is discarded, the first one ready if it has come, else
the next one that comes (70_reset_and_hazards.md R322). -/
def EntropySource.abandonRequest (e : EntropySource) : EntropySource :=
  if e.outstanding then
    match e.answers with
    | [] => { e with outstanding := false, abandoned := e.abandoned + 1 }
    | _ :: rest => { e with outstanding := false, answers := rest }
  else e

/-- How the search for a signature ends, with the entropy source as it is then. -/
inductive SignSearch where
  /-- A candidate gave `(r, s)`. -/
  | signed (r s : Nat) (after : EntropySource)
  /-- An `EntropyRead` answered `Fail`. -/
  | entropyFailed (after : EntropySource)
  /-- Every answer that came is used up and one more is requested (44_nonce_source.md R229). -/
  | waiting (after : EntropySource)
  /-- No candidate index is ever accepted, so the engine step is not defined (93_implementation_defined.md U10). -/
  | unending
  deriving DecidableEq, Repr

/-- A signature `(r, s)` computed from a nonce candidate, or `none` where the loop of 45_ecdsa.md R244 goes on: the
candidate is out of range, `r = 0`, or `s = 0`. -/
def signCandidate (d e c : Nat) : Option (Nat × Nat) :=
  if c = 0 ∨ Config.n ≤ c then none
  else
    let r := (pmul c basePoint).xCoord % Config.n
    if r = 0 then none
    else
      let s := inv c Config.n * ((e + r * d) % Config.n) % Config.n
      if s = 0 then none else some (r, s)

/-- The loop over the answers of the entropy source, one per candidate (44_nonce_source.md R223, R226). -/
def searchRandom (attempt : Nat → Option (Nat × Nat)) (e : EntropySource) : List EntropyAnswer → SignSearch
  | [] =>
    match e.whenEmpty with
    | .timesOut => .entropyFailed (e.consume [])
    | .silent => .waiting e.await
  | .fail :: rest => .entropyFailed (e.consume rest)
  | .ok b :: rest =>
    match attempt b.toNat with
    | some (r, s) => .signed r s (e.consume rest)
    | none => searchRandom attempt e rest

/-- The loop over candidate indices from `t` on, without a bound: `none` when no index ever gives a signature
(44_nonce_source.md R224; 45_ecdsa.md R246). -/
def searchIndexed (attempt : Nat → Option (Nat × Nat)) (t : Nat) : Option (Nat × Nat) :=
  match attempt t with
  | some rs => some rs
  | none => searchIndexed attempt (t + 1)
partial_fixpoint

/-- The signature candidate of index `t` in deterministic mode, for any nonce function (44_nonce_source.md R224). -/
def indexedCandidate (nonce : Word256 → Word256 → Nat → Word256) (d : Word256) (digest e : Nat) (t : Nat) :
    Option (Nat × Nat) :=
  signCandidate d.toNat e (nonce d (BitVec.ofNat 256 digest) t).toNat

/-- The whole search for the mode selected, for a nonce function (45_ecdsa.md R244). Deterministic mode never asks the
entropy source (44_nonce_source.md R226). -/
def signSearch (nonce : Word256 → Word256 → Nat → Word256) (mode : NonceStrategy) (d : Word256) (digest e : Nat)
    (entropy : EntropySource) : SignSearch :=
  match mode with
  | .random => searchRandom (signCandidate d.toNat e) entropy entropy.answers
  | .deterministic =>
    match searchIndexed (indexedCandidate nonce d digest e) 0 with
    | some (r, s) => .signed r s entropy
    | none => .unending

end Sys2Proof.Machine
end

