-- ==== Sys2Proof/Machine/Ops.lean ====
section
/-! DEFINITION. The named operations over the machine's registers, and the life cycle of a command: acceptance,
completion, `raise` (the core's whole answer to an error, 60_exceptions.md R280 to R284, R292) and reset. -/

namespace Sys2Proof.Machine

/-- `w[i] <- v` (00_scope.md R9). -/
def State.writeW (s : State) (i : Fin 8) (v : Word256) : State := { s with w := s.w.set i v }

/-- `ACC <- v` (00_scope.md R9). -/
def State.writeAcc (s : State) (v : Word512) : State := { s with acc := v }

/-- The register that holds a point in canonical form: infinity has zero coordinates (10_state.md R25). -/
def CurvePoint.toReg : CurvePoint → PointReg
  | .inf => { x := 0#256, y := 0#256, inf := true }
  | .affine x y => { x := BitVec.ofNat 256 x, y := BitVec.ofNat 256 y, inf := false }

/-- `pt[j] <- INF` and `pt[j] <- (x, y)` (10_state.md R25). -/
def State.writePoint (s : State) (j : Fin 4) (p : CurvePoint) : State := { s with pt := s.pt.set j p.toReg }

/-- A write of a private key slot (10_state.md R28). -/
def State.writeKs (s : State) (i : Fin 4) (k : PrivSlot) : State := { s with ks := s.ks.set i k }

/-- A write of a public key slot (10_state.md R29). -/
def State.writeKp (s : State) (j : Fin 4) (k : PubSlot) : State := { s with kp := s.kp.set j k }

/-- A write of a byte string into a buffer (10_state.md R32). -/
def State.writeBuffer (s : State) (base : Nat) (bs : List Byte) : State :=
  { s with mem := Memory.writeBytes s.mem base bs }

/-- `ERRCODE` of each error (60_exceptions.md R284). -/
def CommandError.code : CommandError → BitVec 8
  | .invalidKeyLength => 0x01#8
  | .invalidScalarRange => 0x02#8
  | .pointNotOnCurve => 0x03#8
  | .invalidSubgroup => 0x04#8
  | .invalidOperand => 0x05#8
  | .malformedSignature => 0x06#8
  | .entropyUnavailable => 0x07#8
  | .illegalCommand => 0x10#8
  | .keyNotValid => 0x11#8
  | .nonceModeUnselected => 0x12#8
  | .invalidKeyFormat => 0x13#8

/-- Acceptance of a command word (60_exceptions.md R280). -/
def State.accept (s : State) (v : Word32) : State :=
  { s with
    cmdLatch := v
    seq := .busy
    status := { s.status with done := false, err := false, errcode := 0#8 }
    flags := flagsClear }

/-- Completion without error (60_exceptions.md R282). -/
def State.complete (s : State) : State :=
  { s with
    status := { s.status with done := true, err := false, errcode := 0#8 }
    seq := .idle }

/-- `raise e`: the command ends with an error and none of its writes takes effect (60_exceptions.md R283). This is all
the core does where a processor would enter a trap; no command returns from it (R292): the host acknowledges by writing
`STATUS`, see `State.clearStatus`. -/
def State.raise (s : State) (e : CommandError) : State :=
  { s with
    status := { s.status with done := true, err := true, errcode := e.code }
    seq := .idle }

/-- The host's acknowledgement, in place of a return from a trap: write 1 to clear bits 1, 2 and 3 of `STATUS`
(60_exceptions.md R292; 20_memory.md R64). `ERRCODE` stays (10_state.md R35). -/
def State.clearStatus (s : State) (v : Word32) : State :=
  { s with
    status := { s.status with
      done := s.status.done && !v.getLsbD 1
      err := s.status.err && !v.getLsbD 2
      wrdrop := s.status.wrdrop && !v.getLsbD 3 } }

/-- The end of every command's pseudocode: it reached its end with the writes of a state, or it executed one `raise`
(60_exceptions.md R281 to R283). -/
def State.conclude (s : State) : Checked State → Result
  | .ok t => .next t.complete
  | .error e => .next (s.raise e)

/-- Both resets: every piece of the core's state takes its value of 10_state.md R45; of the world outside the core only
an outstanding entropy request changes (70_reset_and_hazards.md R320, R322). -/
def State.resetCore (s : State) : State :=
  { State.reset with env := { s.env with entropy := s.env.entropy.abandonRequest } }

/-- The decoding of the latched command word, which is all the fetch the core has (30_encoding.md R96; 20_memory.md
R74). -/
def State.fetchCommand (s : State) : Except IllegalCause Instr := decode s.cmdLatch

/-- The turns still to come after one is taken. -/
def State.setAgenda (s : State) (turns : List Turn) : State :=
  { s with env := { s.env with agenda := turns } }

/-- The state with another entropy source. -/
def State.setEntropy (s : State) (e : EntropySource) : State := { s with env := { s.env with entropy := e } }

/-- The entropy source's turn. -/
def State.supplyEntropy (s : State) (a : EntropyAnswer) : State := s.setEntropy (s.env.entropy.supply a)

/-- The host port answers the host. -/
def State.respond (s : State) (r : HostResponse) : State :=
  { s with env := { s.env with response := some r } }

end Sys2Proof.Machine
end

