-- ==== Sys2Proof/Machine/Control.lean ====
section
/-! DEFINITION. The control family: `NOP` (46_control.md). -/

namespace Sys2Proof.Machine

/-- `NOP` (46_control.md R270). -/
def execNop (s : State) : Result := s.conclude (.ok s)

end Sys2Proof.Machine
end

