-- ==== Sys2Proof/Machine/Ecdsa.lean ====
section
/-! DEFINITION. The signature family: `SIGN` and `VERIFY` (45_ecdsa.md). -/

namespace Sys2Proof.Machine

/-- The 64 bytes of a signature, `BE32(r) || BE32(s)` (45_ecdsa.md R242). -/
def sigEncoding (r s : Nat) : List Byte := be32 (BitVec.ofNat 256 r) ++ be32 (BitVec.ofNat 256 s)

/-- The end of a `SIGN`: the signature is written, or the entropy failure raised, with the answers used up. Where no
acceptable candidate has arrived the command does not complete and the core stays busy
(45_ecdsa.md R244, R246; 93_implementation_defined.md U10). -/
def State.concludeSign (s : State) : SignSearch → Result
  | .signed r t after => (s.setEntropy after).conclude (.ok ((s.setEntropy after).writeBuffer sigBase (sigEncoding r t)))
  | .entropyFailed after => (s.setEntropy after).conclude (.error .entropyUnavailable)
  | .waiting after => .next (s.setEntropy after)
  | .unending => .next s

/-- The checks of `SIGN` in their order: slot, then nonce mode (45_ecdsa.md R244). -/
def signOperands (ra : Sel) (s : State) : Checked (Word256 × NonceStrategy) := do
  let i ← slotSel ra
  let d ← privOperand s.ks[i]
  let mode ← nonceStrategy s.nonceMode
  .ok (d, mode)

/-- `SIGN` for a nonce function (45_ecdsa.md R244). -/
def signWith (nonce : Word256 → Word256 → Nat → Word256) (ra : Sel) (s : State) : Result :=
  match signOperands ra s with
  | .error e => s.conclude (.error e)
  | .ok (d, mode) => s.concludeSign (signSearch nonce mode d s.digest s.digestScalar s.env.entropy)

/-- `SIGN`, with the open parameter `DetNonce` (45_ecdsa.md R244). -/
def execSign (ra : Sel) (s : State) : Result := signWith Config.detNonce ra s

/-- The point `P = u1*G + u2*Q` of a verification (45_ecdsa.md R250, steps 2 and 3). -/
def verifyPoint (e r s : Nat) (q : CurvePoint) : CurvePoint :=
  let w := inv s Config.n
  padd (pmul (e * w % Config.n) basePoint) (pmul (r * w % Config.n) q)

/-- The verdict of a verification: `INF` fails, else `P.x mod n = r` (45_ecdsa.md R250, steps 3 and 4). -/
def verdict (r : Nat) : CurvePoint → Bool
  | .inf => false
  | .affine x _ => x % Config.n == r

/-- `VERIFY` (45_ecdsa.md R250): slot, length, range, then the verdict in `FLAGS.OK`. -/
def execVerify (ra : Sel) (len : Byte) (s : State) : Result :=
  s.conclude do
    let j ← slotSel ra
    let q ← pubOperand s.kp[j]
    raiseIf (len.toNat ≠ 64) .malformedSignature
    let r := s.sigR
    let t := s.sigS
    raiseIf (r = 0 ∨ Config.n ≤ r ∨ t = 0 ∨ Config.n ≤ t) .malformedSignature
    .ok (s.setOk (verdict r (verifyPoint s.digestScalar r t (.affine q.1.toNat q.2.toNat))))

end Sys2Proof.Machine
end

