-- ==== Sys2Proof/Machine/Key.lean ====
section
/-! DEFINITION. The key store family: `IMPPRIV`, `IMPPUB`, `EXPPRIV`, `EXPPUB`, `DERIVE`, `DISPOSE`
(43_key_material.md). -/

namespace Sys2Proof.Machine

/-- The 68 bytes `EXPPRIV` leaves in `KEYBUF` (43_key_material.md R198). -/
def privEncoding (d : Word256) : List Byte := be32 d ++ List.replicate 36 0#8

/-- The 68 bytes `EXPPUB` leaves in `KEYBUF` (43_key_material.md R199). -/
def pubEncoding (x y : Word256) : List Byte := Config.tag :: (be32 x ++ be32 y ++ List.replicate 3 0#8)

/-- `IMPPRIV` (43_key_material.md R192): length, then range. -/
def execImppriv (rd : Sel) (len : Byte) (s : State) : Result :=
  s.conclude do
    let i ← slotSel rd
    raiseIf (len.toNat ≠ 32) .invalidKeyLength
    let v := Memory.readNat s.mem keyBase 32
    raiseIf (v = 0 ∨ Config.n ≤ v) .invalidScalarRange
    .ok (s.writeKs i { d := BitVec.ofNat 256 v, valid := true })

/-- `IMPPUB` (43_key_material.md R195): length, tag, then point validation. -/
def execImppub (rd : Sel) (len : Byte) (s : State) : Result :=
  s.conclude do
    let j ← slotSel rd
    raiseIf (len.toNat ≠ 65) .invalidKeyLength
    raiseIf (Memory.read s.mem keyBase ≠ Config.tag) .invalidKeyFormat
    let x := Memory.readNat s.mem (keyBase + 1) 32
    let y := Memory.readNat s.mem (keyBase + 33) 32
    validated x y
    .ok (s.writeKp j { x := BitVec.ofNat 256 x, y := BitVec.ofNat 256 y, valid := true })

/-- `EXPPRIV` (43_key_material.md R198). -/
def execExppriv (ra : Sel) (s : State) : Result :=
  s.conclude do
    let i ← slotSel ra
    let d ← privOperand s.ks[i]
    .ok (s.writeBuffer keyBase (privEncoding d))

/-- `EXPPUB` (43_key_material.md R199). -/
def execExppub (ra : Sel) (s : State) : Result :=
  s.conclude do
    let j ← slotSel ra
    let q ← pubOperand s.kp[j]
    .ok (s.writeBuffer keyBase (pubEncoding q.1 q.2))

/-- The public key slot of a private scalar, `Q = d*G` (43_key_material.md R201). -/
def derivedSlot (d : Word256) : PubSlot :=
  let q := pmul d.toNat basePoint
  { x := BitVec.ofNat 256 q.xCoord, y := BitVec.ofNat 256 q.yCoord, valid := true }

/-- `DERIVE` (43_key_material.md R201): no flag is written. -/
def execDerive (rd ra : Sel) (s : State) : Result :=
  s.conclude do
    let j ← slotSel rd
    let i ← slotSel ra
    let d ← privOperand s.ks[i]
    .ok (s.writeKp j (derivedSlot d))

/-- `DISPOSE` (43_key_material.md R203): an empty slot is no error. -/
def execDispose (rd : Sel) (s : State) : Result :=
  s.conclude do
    let i ← slotSel rd
    .ok (s.writeKs i { d := 0#256, valid := false })

end Sys2Proof.Machine
end

