-- ==== Sys2Proof/Machine/Field.lean ====
section
/-! DEFINITION. The modular arithmetic family: `FADD`, `FSUB`, `FMUL`, `FINV`, `FEQ` (40_field_arithmetic.md), over two
shared operations that the Montgomery commands use as well. -/

namespace Sys2Proof.Machine

/-- `w[rd] <- f(a, b)` on two reduced operands (40_field_arithmetic.md R121, R122; R128: the result is a residue). -/
def modBinary (m : Modulus) (rd ra rb : Sel) (s : State) (f : Nat → Nat → Nat) : Result :=
  s.conclude do
    let d ← wSel rd
    let i ← wSel ra
    let j ← wSel rb
    let a ← reducedOperand m s.w[i]
    let b ← reducedOperand m s.w[j]
    .ok (s.writeW d (BitVec.ofNat 256 (f a b)))

/-- `w[rd] <- f(a)` on one reduced operand, where `f` may raise (40_field_arithmetic.md R121, R126). -/
def modUnary (m : Modulus) (rd ra : Sel) (s : State) (f : Nat → Checked Nat) : Result :=
  s.conclude do
    let d ← wSel rd
    let i ← wSel ra
    let a ← reducedOperand m s.w[i]
    let r ← f a
    .ok (s.writeW d (BitVec.ofNat 256 r))

/-- Inversion of a reduced operand: zero has no inverse (40_field_arithmetic.md R126). -/
def checkedInv (m : Modulus) (a : Nat) : Checked Nat :=
  if a = 0 then .error .invalidOperand else .ok (inv a (modulus m))

/-- `FADD` (40_field_arithmetic.md R122). -/
def execFadd (m : Modulus) (rd ra rb : Sel) (s : State) : Result := modBinary m rd ra rb s (addMod (modulus m))

/-- `FSUB` (40_field_arithmetic.md R123). -/
def execFsub (m : Modulus) (rd ra rb : Sel) (s : State) : Result := modBinary m rd ra rb s (subMod (modulus m))

/-- `FMUL` (40_field_arithmetic.md R124): `ACC` is not written (R125). -/
def execFmul (m : Modulus) (rd ra rb : Sel) (s : State) : Result := modBinary m rd ra rb s (mulMod (modulus m))

/-- `FINV` (40_field_arithmetic.md R126). -/
def execFinv (m : Modulus) (rd ra : Sel) (s : State) : Result := modUnary m rd ra s (checkedInv m)

/-- `FEQ` (40_field_arithmetic.md R127). -/
def execFeq (m : Modulus) (ra rb : Sel) (s : State) : Result :=
  s.conclude do
    let i ← wSel ra
    let j ← wSel rb
    let a ← reducedOperand m s.w[i]
    let b ← reducedOperand m s.w[j]
    .ok (s.setEq (a == b))

end Sys2Proof.Machine
end

