-- ==== Sys2Proof/Machine/MontBarrett.lean ====
section
/-! DEFINITION. The Barrett and Montgomery family: `MULW`, `BRED`, `MMUL`, `MTOM`, `MFROM`
(41_montgomery_barrett.md). -/

namespace Sys2Proof.Machine

/-- `MULW` (41_montgomery_barrett.md R143): the exact product; the operands need not be reduced. -/
def execMulw (ra rb : Sel) (s : State) : Result :=
  s.conclude do
    let i ← wSel ra
    let j ← wSel rb
    .ok (s.writeAcc (BitVec.ofNat 512 (s.w[i].toNat * s.w[j].toNat)))

/-- `BRED` (41_montgomery_barrett.md R144). -/
def execBred (m : Modulus) (rd : Sel) (s : State) : Result :=
  s.conclude do
    let d ← wSel rd
    .ok (s.writeW d (BitVec.ofNat 256 (s.acc.toNat % modulus m)))

/-- `MMUL` (41_montgomery_barrett.md R147). -/
def execMmul (m : Modulus) (rd ra rb : Sel) (s : State) : Result := modBinary m rd ra rb s (montMul m)

/-- `MTOM` (41_montgomery_barrett.md R148). -/
def execMtom (m : Modulus) (rd ra : Sel) (s : State) : Result := modUnary m rd ra s (fun a => .ok (toMont m a))

/-- `MFROM` (41_montgomery_barrett.md R149). -/
def execMfrom (m : Modulus) (rd ra : Sel) (s : State) : Result := modUnary m rd ra s (fun a => .ok (fromMont m a))

end Sys2Proof.Machine
end

