-- ==== Sys2Proof/Machine/Point.lean ====
section
/-! DEFINITION. The point family: `PADD`, `PDBL`, `PMUL`, `PCHK`, `PLDG` (42_point_arithmetic.md). -/

namespace Sys2Proof.Machine

/-- `pt[rd] <- S; FLAGS.INF <- 1 if S = INF else 0` (42_point_arithmetic.md R166). -/
def State.pointResult (s : State) (j : Fin 4) (p : CurvePoint) : State :=
  (s.writePoint j p).setInf (p == .inf)

/-- `PADD` (42_point_arithmetic.md R166). -/
def execPadd (rd ra rb : Sel) (s : State) : Result :=
  s.conclude do
    let d ← slotSel rd
    let i ← slotSel ra
    let j ← slotSel rb
    let p ← pointOperand s.pt[i]
    let q ← pointOperand s.pt[j]
    .ok (s.pointResult d (padd p q))

/-- `PDBL` (42_point_arithmetic.md R167). -/
def execPdbl (rd ra : Sel) (s : State) : Result :=
  s.conclude do
    let d ← slotSel rd
    let i ← slotSel ra
    let p ← pointOperand s.pt[i]
    .ok (s.pointResult d (pdbl p))

/-- `PMUL` (42_point_arithmetic.md R173): the scalar is any 256-bit integer. -/
def execPmul (rd ra rb : Sel) (s : State) : Result :=
  s.conclude do
    let d ← slotSel rd
    let i ← slotSel ra
    let j ← wSel rb
    let p ← pointOperand s.pt[i]
    .ok (s.pointResult d (pmul s.w[j].toNat p))

/-- `PCHK` (42_point_arithmetic.md R177): a register that holds `INF` is no valid public point. -/
def execPchk (ra : Sel) (s : State) : Result :=
  s.conclude do
    let i ← slotSel ra
    raiseIf (s.pt[i].inf = true) .pointNotOnCurve
    validated s.pt[i].x.toNat s.pt[i].y.toNat
    .ok s

/-- `PLDG` (42_point_arithmetic.md R168). -/
def execPldg (rd : Sel) (s : State) : Result :=
  s.conclude do
    let d ← slotSel rd
    .ok (s.pointResult d basePoint)

end Sys2Proof.Machine
end

