-- ==== Sys2Proof/Machine/Dispatch.lean ====
section
/-! DEFINITION. The meaning of every command, one arm per constructor of Instr. -/

namespace Sys2Proof.Machine

/-- The engine step of a decoded command: its pseudocode and its completion (60_exceptions.md R281). -/
def exec (i : Instr) (s : State) : Host.Outcome State Fault Refusal :=
  match i with
  | .nop => Sys2Proof.Machine.execNop s
  | .fadd m rd ra rb => Sys2Proof.Machine.execFadd m rd ra rb s
  | .fsub m rd ra rb => Sys2Proof.Machine.execFsub m rd ra rb s
  | .fmul m rd ra rb => Sys2Proof.Machine.execFmul m rd ra rb s
  | .finv m rd ra => Sys2Proof.Machine.execFinv m rd ra s
  | .feq m ra rb => Sys2Proof.Machine.execFeq m ra rb s
  | .mulw ra rb => Sys2Proof.Machine.execMulw ra rb s
  | .bred m rd => Sys2Proof.Machine.execBred m rd s
  | .mmul m rd ra rb => Sys2Proof.Machine.execMmul m rd ra rb s
  | .mtom m rd ra => Sys2Proof.Machine.execMtom m rd ra s
  | .mfrom m rd ra => Sys2Proof.Machine.execMfrom m rd ra s
  | .padd rd ra rb => Sys2Proof.Machine.execPadd rd ra rb s
  | .pdbl rd ra => Sys2Proof.Machine.execPdbl rd ra s
  | .pmul rd ra rb => Sys2Proof.Machine.execPmul rd ra rb s
  | .pchk ra => Sys2Proof.Machine.execPchk ra s
  | .pldg rd => Sys2Proof.Machine.execPldg rd s
  | .imppriv rd len => Sys2Proof.Machine.execImppriv rd len s
  | .imppub rd len => Sys2Proof.Machine.execImppub rd len s
  | .exppriv ra => Sys2Proof.Machine.execExppriv ra s
  | .exppub ra => Sys2Proof.Machine.execExppub ra s
  | .derive rd ra => Sys2Proof.Machine.execDerive rd ra s
  | .dispose rd => Sys2Proof.Machine.execDispose rd s
  | .sign ra => Sys2Proof.Machine.execSign ra s
  | .verify ra len => Sys2Proof.Machine.execVerify ra len s

end Sys2Proof.Machine
end

