-- ==== Sys2Proof/Machine/HostPort.lean ====
section
/-! DEFINITION. The register window and the host's accesses to it (20_memory.md R60 to R72). -/

namespace Sys2Proof.Machine

/-- Where the byte mapped at a window offset is stored (20_memory.md R62). -/
inductive ByteHome where
  /-- Byte `i` of `ACC`. -/
  | acc (i : Nat)
  /-- A byte of `DIGBUF`, `SIGBUF` or `KEYBUF`, at its own offset. -/
  | buffer (o : Nat)
  /-- Byte `i` of `w[r]`. -/
  | w (r : Fin 8) (i : Nat)
  /-- Byte `i` of `pt[j].x`. -/
  | ptX (j : Fin 4) (i : Nat)
  /-- Byte `i` of `pt[j].y`. -/
  | ptY (j : Fin 4) (i : Nat)
  /-- Byte `i` of a curve constant. -/
  | const (v : Word256) (i : Nat)
  /-- Nothing: a reserved offset, or a control register, which is no byte string. -/
  | none
  deriving DecidableEq, Repr

/-- The six read-only constants in the order of their offsets (10_state.md R40). -/
def curveConstant : Nat → Nat
  | 0 => Config.p
  | 1 => Config.n
  | 2 => Config.a
  | 3 => Config.b
  | 4 => Config.gx
  | _ => Config.gy

/-- The window map (20_memory.md R62). -/
def byteHome (o : Nat) : ByteHome :=
  if 0x040 ≤ o ∧ o < 0x080 then .acc (o - 0x040)
  else if inBuffer o then .buffer o
  else if 0x200 ≤ o ∧ o < 0x300 then .w (Fin.ofNat 8 ((o - 0x200) / 32)) (o % 32)
  else if 0x300 ≤ o ∧ o < 0x400 then
    if (o - 0x300) % 64 < 32 then .ptX (Fin.ofNat 4 ((o - 0x300) / 64)) (o % 32)
    else .ptY (Fin.ofNat 4 ((o - 0x300) / 64)) (o % 32)
  else if 0x800 ≤ o ∧ o < 0x8C0 then
    .const (BitVec.ofNat 256 (curveConstant ((o - 0x800) / 32))) (o % 32)
  else .none

/-- `B[o]`, the byte mapped at an offset; a reserved offset reads zero (20_memory.md R63, R65, R67). -/
def State.windowByte (s : State) (o : Nat) : Byte :=
  match byteHome o with
  | .acc i => beByte s.acc i
  | .buffer a => Memory.read s.mem a
  | .w r i => beByte s.w[r] i
  | .ptX j i => beByte s.pt[j].x i
  | .ptY j i => beByte s.pt[j].y i
  | .const v i => beByte v i
  | .none => 0#8

/-- `B[o] <- b` in the writable byte regions; constants and reserved offsets ignore it (20_memory.md R64, R67). A write
to the coordinates of a point register leaves its `inf` bit (10_state.md R26). -/
def State.writeWindowByte (s : State) (o : Nat) (b : Byte) : State :=
  match byteHome o with
  | .acc i => s.writeAcc (setBeByte s.acc i b)
  | .buffer a => { s with mem := Memory.write s.mem a b }
  | .w r i => s.writeW r (setBeByte s.w[r] i b)
  | .ptX j i => { s with pt := s.pt.set j { s.pt[j] with x := setBeByte s.pt[j].x i b } }
  | .ptY j i => { s with pt := s.pt.set j { s.pt[j] with y := setBeByte s.pt[j].y i b } }
  | .const _ _ => s
  | .none => s

/-- The value of a control register, a 32-bit number to which the lane rule does not apply
(20_memory.md R62, R66; 10_state.md R26, R33 to R39). -/
def State.controlWord (s : State) (off : Nat) : Option Word32 :=
  if off = 0x000 then some Config.id
  else if off = 0x004 then some s.cmdLatch
  else if off = 0x008 then some s.statusWord
  else if off = 0x00C then some s.flagsWord
  else if off = 0x010 then some s.cfgWord
  else if off = 0x014 then some s.intenWord
  else if off = 0x018 then some 0#32
  else if off = 0x400 then some s.ptinfWord
  else none

/-- `MemRead(off, 4)` (20_memory.md R63, R69). -/
def State.memRead (s : State) (off : Nat) : Word32 :=
  if s.busy = true ∧ 0x040 ≤ off then 0#32
  else
    match s.controlWord off with
    | some v => v
    | none => lanes (s.windowByte off) (s.windowByte (off + 1)) (s.windowByte (off + 2)) (s.windowByte (off + 3))

/-- The four byte writes of a word (20_memory.md R64, R66). -/
def State.writeLanes (s : State) (off : Nat) (v : Word32) : State :=
  (((s.writeWindowByte off (laneByte v 0)).writeWindowByte (off + 1) (laneByte v 1)).writeWindowByte
    (off + 2) (laneByte v 2)).writeWindowByte (off + 3) (laneByte v 3)

/-- A write of `PTINF`: all four `inf` bits at once (10_state.md R26). -/
def State.writePtinf (s : State) (v : Word32) : State :=
  { s with pt := Vector.ofFn (fun j : Fin 4 => { s.pt[j] with inf := v.getLsbD j }) }

/-- A write of `CFG` (10_state.md R37). -/
def State.writeCfg (s : State) (v : Word32) : State := { s with nonceMode := v.extractLsb' 0 2 }

/-- A write of `INTEN` (10_state.md R38). -/
def State.writeInten (s : State) (v : Word32) : State :=
  { s with inten := { doneIe := v.getLsbD 0, errIe := v.getLsbD 1 } }

/-- A write dropped because the core is busy (20_memory.md R68). -/
def State.dropWrite (s : State) : State := { s with status := { s.status with wrdrop := true } }

/-- `MemWrite(off, 4, v)` (20_memory.md R64). `ID`, `FLAGS`, the constants and reserved offsets fall to the byte writes,
which ignore them. -/
def State.memWrite (s : State) (off : Nat) (v : Word32) : State :=
  if off = 0x018 then (if v.getLsbD 0 then s.resetCore else s)
  else if s.busy then s.dropWrite
  else if off = 0x004 then s.accept v
  else if off = 0x008 then s.clearStatus v
  else if off = 0x010 then s.writeCfg v
  else if off = 0x014 then s.writeInten v
  else if off = 0x400 then s.writePtinf v
  else s.writeLanes off v

/-- Only aligned 32-bit accesses inside the window exist (20_memory.md R70). -/
abbrev legalAccess (off width : Nat) : Prop := width = 4 ∧ off % 4 = 0 ∧ off ≤ 0xFFC

/-- One access of the host. One that does not exist changes nothing of the core and is answered with `BusError`
(20_memory.md R70; notes/assumptions/7). -/
def State.hostAccess (s : State) : HostAccess → State
  | .read off width =>
    if legalAccess off width then s.respond (.data (s.memRead off)) else s.respond .busError
  | .write off width v =>
    if legalAccess off width then (s.memWrite off v).respond .written else s.respond .busError

end Sys2Proof.Machine
end

