-- ==== Sys2Proof/Machine/Step.lean ====
section
/-! DEFINITION. One step of the machine: the next turn of the interleaving of host, engine and entropy source
(00_scope.md R12; 20_memory.md R72). -/

namespace Sys2Proof.Machine

/-- The engine's turn (60_exceptions.md R281): idle it waits for the host (R310), busy it decodes the latched word and
runs the command, or raises `IllegalCommand`. -/
def engineTurn (s : State) : Host.Outcome State Fault Refusal :=
  match s.seq with
  | .idle => .next s
  | .busy =>
    match s.fetchCommand with
    | .ok i => exec i s
    | .error _ => s.conclude (.error .illegalCommand)

/-- One turn of an agent (00_scope.md R12). -/
def takeTurn (t : Turn) (s : State) : Host.Outcome State Fault Refusal :=
  match t with
  | .host a => .next (s.hostAccess a)
  | .engine => engineTurn s
  | .entropySource a => .next (s.supplyEntropy a)
  | .hardwareReset => .next s.resetCore

/-- One step: the first turn of the agenda, or the engine's when the agenda is empty. -/
def step (s : State) : Host.Outcome State Fault Refusal :=
  match s.env.agenda with
  | [] => engineTurn s
  | t :: rest => takeTurn t (s.setAgenda rest)

/-- `s` with the command word `w` accepted into `CMDLATCH` and the engine's turn next, so that the very next step decodes
and runs it (60_exceptions.md R280; notes/assumptions/1). -/
def State.withFetchWord (s : State) (nbits w : Nat) : State :=
  (s.accept (BitVec.ofNat 32 (w % 2 ^ nbits))).setAgenda []

end Sys2Proof.Machine
end

