-- ==== Sys2Proof/Safety.lean ====
section
/-! DEFINITION. What counts as a safe run, in the terms the statements use: the invariant of the machine, what a command
leaves unchanged, how a command ends, and what two states agree on. -/

namespace Sys2Proof.Machine

/-- The selector that names register or slot `i` of a class of `k` (30_encoding.md R92). Every selector in range is one. -/
def selOf {k : Nat} (i : Fin k) : Sel := BitVec.ofNat 4 i

/-- The parts of the state a command may or may not write. -/
inductive Part where
  | w
  | acc
  | pt
  | ks
  | kp
  | mem
  | flags
  | settings
  | env
  deriving DecidableEq, Repr

/-- A part is the same in two states. The bytes of memory are compared through the read of one byte. `settings` is what
no command writes: `CMDLATCH`, `CFG`, `INTEN` and `WRDROP`. -/
def Part.same : Part → State → State → Prop
  | .w, s, t => ∀ j : Fin 8, t.w[j] = s.w[j]
  | .acc, s, t => t.acc = s.acc
  | .pt, s, t => ∀ j : Fin 4, t.pt[j] = s.pt[j]
  | .ks, s, t => ∀ j : Fin 4, t.ks[j] = s.ks[j]
  | .kp, s, t => ∀ j : Fin 4, t.kp[j] = s.kp[j]
  | .mem, s, t => ∀ o : Nat, Memory.read t.mem o = Memory.read s.mem o
  | .flags, s, t => t.flags = s.flags
  | .settings, s, t => t.cmdLatch = s.cmdLatch ∧ t.nonceMode = s.nonceMode ∧ t.inten = s.inten ∧
      t.status.wrdrop = s.status.wrdrop
  | .env, s, t => t.env = s.env

/-- Every part but the listed ones is the same. -/
def Keeps (s t : State) (changed : List Part) : Prop := ∀ q : Part, q ∉ changed → q.same s t

/-- The parts each command may write (10_state.md R22, R23, R28, R29; 43_key_material.md R205). `SIGN` uses up answers
of the entropy source, which are in `env`. -/
def partsWritten : Instr → List Part
  | .nop => []
  | .fadd .. => [.w]
  | .fsub .. => [.w]
  | .fmul .. => [.w]
  | .finv .. => [.w]
  | .feq .. => [.flags]
  | .mulw .. => [.acc]
  | .bred .. => [.w]
  | .mmul .. => [.w]
  | .mtom .. => [.w]
  | .mfrom .. => [.w]
  | .padd .. => [.pt, .flags]
  | .pdbl .. => [.pt, .flags]
  | .pmul .. => [.pt, .flags]
  | .pchk .. => []
  | .pldg .. => [.pt, .flags]
  | .imppriv .. => [.ks]
  | .imppub .. => [.kp]
  | .exppriv .. => [.mem]
  | .exppub .. => [.mem]
  | .derive .. => [.kp]
  | .dispose .. => [.ks]
  | .sign .. => [.mem, .env]
  | .verify .. => [.flags]

/-- The errors each command can end with (60_exceptions.md R285). -/
def errorsOf : Instr → List CommandError
  | .nop => []
  | .fadd .. => [.invalidOperand]
  | .fsub .. => [.invalidOperand]
  | .fmul .. => [.invalidOperand]
  | .finv .. => [.invalidOperand]
  | .feq .. => [.invalidOperand]
  | .mulw .. => []
  | .bred .. => []
  | .mmul .. => [.invalidOperand]
  | .mtom .. => [.invalidOperand]
  | .mfrom .. => [.invalidOperand]
  | .padd .. => [.pointNotOnCurve]
  | .pdbl .. => [.pointNotOnCurve]
  | .pmul .. => [.pointNotOnCurve]
  | .pchk .. => [.pointNotOnCurve, .invalidSubgroup]
  | .pldg .. => []
  | .imppriv .. => [.invalidKeyLength, .invalidScalarRange]
  | .imppub .. => [.invalidKeyLength, .pointNotOnCurve, .invalidSubgroup, .invalidKeyFormat]
  | .exppriv .. => [.keyNotValid]
  | .exppub .. => [.keyNotValid]
  | .derive .. => [.keyNotValid]
  | .dispose .. => []
  | .sign .. => [.entropyUnavailable, .keyNotValid, .nonceModeUnselected]
  | .verify .. => [.malformedSignature, .keyNotValid]

/-- The state a command leaves when it completes without error (60_exceptions.md R282). -/
def EndsOk (t : State) : Prop :=
  t.seq = .idle ∧ t.status.done = true ∧ t.status.err = false ∧ t.status.errcode = 0#8

/-- The state a command leaves when it ends with an error and nothing else written (60_exceptions.md R283). -/
def EndsWith (e : CommandError) (s t : State) : Prop :=
  t.seq = .idle ∧ t.status.done = true ∧ t.status.err = true ∧ t.status.errcode = e.code ∧ Keeps s t []

/-- The command completes without error in a state of which a property holds. -/
def CompletesTo (i : Instr) (s : State) (post : State → Prop) : Prop :=
  ∃ t, exec i s = .next t ∧ EndsOk t ∧ post t

/-- The command ends with an error and no other effect. -/
def Raises (i : Instr) (s : State) (e : CommandError) : Prop :=
  ∃ t, exec i s = .next t ∧ EndsWith e s t

/-- A `w` register takes a value; every other register and part stays. -/
def WritesW (d : Fin 8) (v : Nat) (s t : State) : Prop :=
  t.w[d].toNat = v ∧ (∀ j : Fin 8, j ≠ d → t.w[j] = s.w[j]) ∧ Keeps s t [.w]

/-- A point register takes a point, `FLAGS.INF` says whether it is infinity; every other register, flag and part
stays. -/
def WritesPoint (d : Fin 4) (p : CurvePoint) (s t : State) : Prop :=
  t.pt[d] = p.toReg ∧ (∀ j : Fin 4, j ≠ d → t.pt[j] = s.pt[j]) ∧
  t.flags = { s.flags with inf := decide (p = .inf) } ∧ Keeps s t [.pt, .flags]

/-- A private key slot takes a content; every other slot and part stays. -/
def WritesKs (i : Fin 4) (k : PrivSlot) (s t : State) : Prop :=
  t.ks[i] = k ∧ (∀ j : Fin 4, j ≠ i → t.ks[j] = s.ks[j]) ∧ Keeps s t [.ks]

/-- A public key slot takes a content; every other slot and part stays. -/
def WritesKp (i : Fin 4) (k : PubSlot) (s t : State) : Prop :=
  t.kp[i] = k ∧ (∀ j : Fin 4, j ≠ i → t.kp[j] = s.kp[j]) ∧ Keeps s t [.kp]

/-- A byte string is stored from an offset upward; every byte outside it stays. -/
def StoresBytes (a : Nat) (bs : List Byte) (s t : State) : Prop :=
  (∀ k (h : k < bs.length), Memory.read t.mem (a + k) = bs[k]) ∧
  (∀ o, o < a ∨ a + bs.length ≤ o → Memory.read t.mem o = Memory.read s.mem o)

/-- The signature equations of 45_ecdsa.md R244 for a nonce `c`. -/
def Signs (d e c r s : Nat) : Prop :=
  0 < c ∧ c < Config.n ∧ (∃ x y, pmul c basePoint = .affine x y ∧ r = x % Config.n) ∧ r ≠ 0 ∧
  s = inv c Config.n * ((e + r * d) % Config.n) % Config.n ∧ s ≠ 0

/-- The invariant of the machine. -/
structure State.Inv (s : State) : Prop where
  /-- The buffer memory has its canonical form. -/
  memCanonical : Memory.wf s.mem
  /-- A valid private key slot holds a scalar in `[1, n-1]` (10_state.md R27). -/
  privValid : ∀ i : Fin 4, s.ks[i].valid = true → 0 < s.ks[i].d.toNat ∧ s.ks[i].d.toNat < Config.n
  /-- An empty private key slot holds zero (10_state.md R27). -/
  privEmpty : ∀ i : Fin 4, s.ks[i].valid = false → s.ks[i].d = 0#256
  /-- An empty public key slot holds zeros (10_state.md R30). -/
  pubEmpty : ∀ j : Fin 4, s.kp[j].valid = false → s.kp[j].x = 0#256 ∧ s.kp[j].y = 0#256
  /-- While a command is latched, the previous outcome and all flags are clear (60_exceptions.md R280). -/
  busyClear : s.seq = .busy →
    s.status.done = false ∧ s.status.err = false ∧ s.status.errcode = 0#8 ∧ s.flags = flagsClear
  /-- `ERR` stands with a code (60_exceptions.md R283). -/
  errCoded : s.status.err = true → s.status.errcode ≠ 0#8
  /-- `ERRCODE` holds a value of the table (60_exceptions.md R284). -/
  knownCode : s.status.errcode = 0#8 ∨ ∃ e : CommandError, s.status.errcode = e.code
  /-- A failed command leaves all flags clear (10_state.md R36). -/
  failedClear : s.status.errcode ≠ 0#8 → s.flags = flagsClear
  /-- `FLAGS` describes one command, so at most one flag is set (10_state.md R36). -/
  oneFlag : (s.flags.eq && s.flags.inf) = false ∧ (s.flags.eq && s.flags.ok) = false ∧
    (s.flags.inf && s.flags.ok) = false

/-- Every valid public key slot holds a reduced point of the curve in the group of order `n` (10_state.md R30). -/
def State.PubSound (s : State) : Prop :=
  ∀ j : Fin 4, s.kp[j].valid = true →
    onCurve s.kp[j].x.toNat s.kp[j].y.toNat = true ∧
    pmul Config.n (.affine s.kp[j].x.toNat s.kp[j].y.toNat) = .inf

/-- The state with other private key slots. -/
def State.withKs (s : State) (ks : Vector PrivSlot 4) : State := { s with ks := ks }

/-- An outcome with the private key slots blanked out, to compare what is left. -/
def blankKs : Result → Result
  | .next t => .next (t.withKs State.reset.ks)
  | .fault r => .fault r
  | .refused r => .refused r

/-- The commands that read a private scalar: `EXPPRIV`, `DERIVE` and `SIGN` (10_state.md R28; 45_ecdsa.md R248). -/
def readsPrivate : Instr → Bool
  | .exppriv _ => true
  | .derive _ _ => true
  | .sign _ => true
  | .nop => false
  | .fadd .. => false
  | .fsub .. => false
  | .fmul .. => false
  | .finv .. => false
  | .feq .. => false
  | .mulw .. => false
  | .bred .. => false
  | .mmul .. => false
  | .mtom .. => false
  | .mfrom .. => false
  | .padd .. => false
  | .pdbl .. => false
  | .pmul .. => false
  | .pchk .. => false
  | .pldg .. => false
  | .imppriv .. => false
  | .imppub .. => false
  | .exppub .. => false
  | .dispose .. => false
  | .verify .. => false

/-- The offsets of the writable byte regions, a word at a time (20_memory.md R62, R64). -/
abbrev writableWord (off : Nat) : Prop :=
  off % 4 = 0 ∧ ((0x040 ≤ off ∧ off < 0x0A0) ∨ (0x0C0 ≤ off ∧ off < 0x144) ∨ (0x200 ≤ off ∧ off < 0x400))

end Sys2Proof.Machine
end

