-- ==== Sys2Proof/Certificates/Slice0/Obligations.lean ====
section
/-! DEFINITION. The statements for the provers: what the numbered rules of spec/ say the machine does. Selectors in range
are written `selOf i`; every well-formed command has only such selectors. -/

open Sys2Proof Sys2Proof.Machine

/-- Decoding the word of any well-formed command gives the command back (30_encoding.md R90, 30_encoding.md R91, 30_encoding.md R92, 30_encoding.md R95, 30_encoding.md R96). -/
def Obligations.DecodeInvertsEncode : Prop :=
  ∀ i : Instr, i.wellFormed = true → decode (encode i) = .ok i

/-- A legal word decodes to a well-formed command whose word it is (30_encoding.md R90, 30_encoding.md R92, 30_encoding.md R95). -/
def Obligations.EncodeInvertsDecode : Prop :=
  ∀ (c : Word32) (i : Instr), decode c = .ok i → i.wellFormed = true ∧ encode i = c

/-- At most one row of the table matches a word, and none matches a selector out of range (30_encoding.md R92, 30_encoding.md R95, 30_encoding.md R97).
The name of the cause is the model's (notes/assumptions/14); the core reports IllegalCommand for each. -/
def Obligations.TableIsUnambiguousAndChecksSelectors : Prop :=
  (∀ (c : Word32) (i j : Fin opcodeTable.length),
    opcodeTable[i].accepts c = true → opcodeTable[j].accepts c = true → i = j) ∧
  (∀ i : Instr, i.wellFormed = false → decode (encode i) = .error .selectorRange)

/-- The six worked encodings of R96 decode to their commands (30_encoding.md R96).
Sanity check of six words. -/
def Obligations.WorkedWordsDecode : Prop :=
  decode 0x00213010#32 = .ok (.fadd .p 3 1 2) ∧ decode 0x00213112#32 = .ok (.fmul .n 3 1 2) ∧
  decode 0x00201022#32 = .ok (.pmul 1 0 2) ∧ decode 0x20000030#32 = .ok (.imppriv 0 32) ∧
  decode 0x41001031#32 = .ok (.imppub 1 65) ∧ decode 0x40010041#32 = .ok (.verify 1 64)

/-- A step of a busy core runs the decoded command when the engine has the turn (60_exceptions.md R281, 30_encoding.md R96, 00_scope.md R12).
That the agenda holds the order of turns, and that an empty one gives the engine the turn, is the model's choice (notes/assumptions/2). -/
def Obligations.StepRunsTheDecodedCommand : Prop :=
  ∀ (s : State) (i : Instr), s.seq = .busy → decode s.cmdLatch = .ok i →
    (s.env.agenda = [] → step s = exec i s) ∧
    (∀ rest, s.env.agenda = .engine :: rest → step s = exec i (s.setAgenda rest))

/-- A word that matches no row is accepted, completes with IllegalCommand and changes no state but STATUS (30_encoding.md R97). -/
def Obligations.IllegalWordOnlyReports : Prop :=
  ∀ (s : State) (c : Word32), (∀ r ∈ opcodeTable, r.accepts c = false) → s.seq = .idle → s.env.agenda = [] →
    (s.memWrite 0x004 c).seq = .busy ∧ (s.memWrite 0x004 c).cmdLatch = c ∧
    ∃ t, step (s.memWrite 0x004 c) = .next t ∧ EndsWith .illegalCommand (s.memWrite 0x004 c) t ∧
      CommandError.code .illegalCommand = 0x10#8 ∧ t.flags = flagsClear

/-- A write of CMD on an idle core latches the word, clears the outcome and flags, and keeps everything else (R280). -/
def Obligations.CommandWriteIsAcceptedWhenIdle : Prop :=
  ∀ (s : State) (v : Word32),
    (s.seq = .idle →
      let t := s.memWrite 0x004 v
      t.cmdLatch = v ∧ t.seq = .busy ∧ t.busy = true ∧ t.status.done = false ∧ t.status.err = false ∧
      t.status.errcode = 0#8 ∧ t.flags = flagsClear ∧ t.irq = false ∧ t.status.wrdrop = s.status.wrdrop ∧
      t.nonceMode = s.nonceMode ∧ t.inten = s.inten ∧ Keeps s t [.flags, .settings]) ∧
    (s.seq = .busy → s.memWrite 0x004 v = { s with status := { s.status with wrdrop := true } })

/-- A command ends in its own writes with STATUS 0x2, or by raise in none of them with STATUS (code << 8) | 6 (60_exceptions.md R282, 60_exceptions.md R283, 60_exceptions.md R292). -/
def Obligations.CommandsEndInTheStatusWord : Prop :=
  ∀ (s u : State) (e : CommandError),
    (∃ t, s.conclude (.ok u) = .next t ∧
      t = { u with seq := .idle, status := { u.status with errcode := 0#8, err := false, done := true } } ∧
      t.statusWord = if u.status.wrdrop then 0x0000000A#32 else 0x00000002#32) ∧
    (∃ t, s.conclude (.error e) = .next t ∧
      t = { s with seq := .idle, status := { s.status with errcode := e.code, err := true, done := true } } ∧
      t.statusWord = (e.code.setWidth 32 <<< 8) ||| (if s.status.wrdrop then 0x0000000E#32 else 0x00000006#32))

/-- Every command ends only with the error codes its row of R285 lists (60_exceptions.md R285, 60_exceptions.md R284). -/
def Obligations.CommandsEndOnlyWithTheirErrors : Prop :=
  ∀ (i : Instr) (s t : State), i.wellFormed = true → s.seq = .busy → exec i s = .next t → t.seq = .idle →
    (t.status.err = false ∧ t.status.errcode = 0#8) ∨
    (t.status.err = true ∧ ∃ e ∈ errorsOf i, t.status.errcode = e.code)

/-- No command writes a part of the state outside its own list (10_state.md R22, 10_state.md R23, 10_state.md R28, 10_state.md R29, 43_key_material.md R205, 45_ecdsa.md R248, 45_ecdsa.md R252). -/
def Obligations.CommandsWriteOnlyTheirParts : Prop :=
  ∀ (i : Instr) (s t : State), exec i s = .next t → Keeps s t (partsWritten i)

/-- From every state a step answers a next state (93_implementation_defined.md part 1, 60_exceptions.md R281, 60_exceptions.md R283).
The model's choices: an idle engine's turn is a step (notes/assumptions/2), so is an access to which R70 gives none
(notes/assumptions/7), and where R246 leaves the step of SIGN undefined the core stays busy (notes/assumptions/8). -/
def Obligations.StepNeverStops : Prop :=
  ∀ s : State, ∃ t, step s = .next t

/-- NOP completes and changes nothing else (46_control.md R270). -/
def Obligations.NopOnlyCompletes : Prop :=
  ∀ s : State, CompletesTo .nop s (fun t => Keeps s t [])

/-- FADD writes (a + b) mod M, with one subtraction of M where the sum reaches it (40_field_arithmetic.md R122). -/
def Obligations.FaddWritesTheSum : Prop :=
  ∀ (m : Modulus) (d i j : Fin 8) (s : State),
    let a := s.w[i].toNat
    let b := s.w[j].toNat
    (a < modulus m ∧ b < modulus m →
      CompletesTo (.fadd m (selOf d) (selOf i) (selOf j)) s (WritesW d (if a + b < modulus m then a + b else a + b - modulus m) s)) ∧
    (¬(a < modulus m ∧ b < modulus m) →
      Raises (.fadd m (selOf d) (selOf i) (selOf j)) s .invalidOperand)

/-- FSUB writes (a - b) mod M: a - b, or a - b + M where b is larger (40_field_arithmetic.md R123). -/
def Obligations.FsubWritesTheDifference : Prop :=
  ∀ (m : Modulus) (d i j : Fin 8) (s : State),
    let a := s.w[i].toNat
    let b := s.w[j].toNat
    (a < modulus m ∧ b < modulus m →
      CompletesTo (.fsub m (selOf d) (selOf i) (selOf j)) s (WritesW d (if b ≤ a then a - b else a + modulus m - b) s)) ∧
    (¬(a < modulus m ∧ b < modulus m) →
      Raises (.fsub m (selOf d) (selOf i) (selOf j)) s .invalidOperand)

/-- FMUL writes (a * b) mod M of the exact product, and leaves ACC (40_field_arithmetic.md R124). -/
def Obligations.FmulWritesTheProduct : Prop :=
  ∀ (m : Modulus) (d i j : Fin 8) (s : State),
    let a := s.w[i].toNat
    let b := s.w[j].toNat
    (a < modulus m ∧ b < modulus m →
      CompletesTo (.fmul m (selOf d) (selOf i) (selOf j)) s (WritesW d (a * b % modulus m) s)) ∧
    (¬(a < modulus m ∧ b < modulus m) →
      Raises (.fmul m (selOf d) (selOf i) (selOf j)) s .invalidOperand)

/-- MMUL writes (a * b * Rinv(M)) mod M (41_montgomery_barrett.md R147). -/
def Obligations.MmulWritesTheMontgomeryProduct : Prop :=
  ∀ (m : Modulus) (d i j : Fin 8) (s : State),
    let a := s.w[i].toNat
    let b := s.w[j].toNat
    (a < modulus m ∧ b < modulus m →
      CompletesTo (.mmul m (selOf d) (selOf i) (selOf j)) s (WritesW d (a * b * radixInv m % modulus m) s)) ∧
    (¬(a < modulus m ∧ b < modulus m) →
      Raises (.mmul m (selOf d) (selOf i) (selOf j)) s .invalidOperand)

/-- FINV writes a^(M-2) mod M for a non-zero reduced operand and raises InvalidOperand otherwise (40_field_arithmetic.md R126, 40_field_arithmetic.md R121). -/
def Obligations.FinvWritesTheFermatPower : Prop :=
  ∀ (m : Modulus) (d i : Fin 8) (s : State),
    let a := s.w[i].toNat
    (0 < a ∧ a < modulus m →
      CompletesTo (.finv m (selOf d) (selOf i)) s (WritesW d (a ^ (modulus m - 2) % modulus m) s)) ∧
    (a = 0 ∨ modulus m ≤ a → Raises (.finv m (selOf d) (selOf i)) s .invalidOperand)

/-- The value FINV writes is the inverse of its operand modulo M (40_field_arithmetic.md R126, 93_implementation_defined.md G9). -/
def Obligations.FinvResultIsTheInverse : Prop :=
  ∀ (m : Modulus) (a : Nat), 0 < a → a < modulus m →
    0 < inv a (modulus m) ∧ inv a (modulus m) < modulus m ∧ a * inv a (modulus m) % modulus m = 1

/-- FEQ writes EQ from the equality of two reduced operands and nothing else (40_field_arithmetic.md R127). -/
def Obligations.FeqWritesOnlyTheEqFlag : Prop :=
  ∀ (m : Modulus) (i j : Fin 8) (s : State),
    let a := s.w[i].toNat
    let b := s.w[j].toNat
    (a < modulus m ∧ b < modulus m →
      CompletesTo (.feq m (selOf i) (selOf j)) s
        (fun t => t.flags = { s.flags with eq := decide (a = b) } ∧ Keeps s t [.flags])) ∧
    (¬(a < modulus m ∧ b < modulus m) → Raises (.feq m (selOf i) (selOf j)) s .invalidOperand)

/-- MULW writes the exact 512-bit product of two unchecked operands to ACC and nothing else (41_montgomery_barrett.md R143). -/
def Obligations.MulwWritesTheExactProduct : Prop :=
  ∀ (i j : Fin 8) (s : State),
    CompletesTo (.mulw (selOf i) (selOf j)) s
      (fun t => t.acc.toNat = s.w[i].toNat * s.w[j].toNat ∧ Keeps s t [.acc])

/-- BRED writes ACC mod M for every value of ACC and leaves ACC (41_montgomery_barrett.md R144). -/
def Obligations.BredWritesTheResidueOfAcc : Prop :=
  ∀ (m : Modulus) (d : Fin 8) (s : State),
    CompletesTo (.bred m (selOf d)) s (WritesW d (s.acc.toNat % modulus m) s)

/-- MTOM writes (a * R) mod M and MFROM (a * Rinv(M)) mod M of a reduced operand (41_montgomery_barrett.md R148, 41_montgomery_barrett.md R149, 40_field_arithmetic.md R121). -/
def Obligations.MtomAndMfromConvert : Prop :=
  ∀ (m : Modulus) (d i : Fin 8) (s : State),
    let a := s.w[i].toNat
    (a < modulus m →
      CompletesTo (.mtom m (selOf d) (selOf i)) s (WritesW d (a * 2 ^ 256 % modulus m) s) ∧
      CompletesTo (.mfrom m (selOf d) (selOf i)) s (WritesW d (a * radixInv m % modulus m) s)) ∧
    (modulus m ≤ a →
      Raises (.mtom m (selOf d) (selOf i)) s .invalidOperand ∧
      Raises (.mfrom m (selOf d) (selOf i)) s .invalidOperand)

/-- The Barrett method with two corrective subtractions gives x mod M for every x below 2^512 (41_montgomery_barrett.md R145, 41_montgomery_barrett.md R141). -/
def Obligations.BarrettMethodReduces : Prop :=
  ∀ (m : Modulus) (x : Nat), x < 2 ^ 512 → barrettReduce (modulus m) x = x % modulus m

/-- The Montgomery reduction with one conditional subtraction gives the Montgomery product (41_montgomery_barrett.md R150, 41_montgomery_barrett.md R140). -/
def Obligations.MontgomeryMethodMultiplies : Prop :=
  ∀ (m : Modulus) (a b : Nat), a < modulus m → b < modulus m →
    montReduce m (a * b) = a * b * radixInv m % modulus m

/-- The commands MULW, BRED, and the commands MTOM, MTOM, MMUL, MFROM, leave the value FMUL leaves (40_field_arithmetic.md R125, 41_montgomery_barrett.md R145, 41_montgomery_barrett.md R150). -/
def Obligations.ThreePathsToOneProduct : Prop :=
  ∀ (m : Modulus) (d i j : Fin 8) (s : State), s.w[i].toNat < modulus m → s.w[j].toNat < modulus m →
    ∃ v, exec (.fmul m (selOf d) (selOf i) (selOf j)) s = .next v ∧ EndsOk v ∧
      (∃ t u, exec (.mulw (selOf i) (selOf j)) s = .next t ∧ EndsOk t ∧
        exec (.bred m (selOf d)) t = .next u ∧ EndsOk u ∧ u.w[d] = v.w[d]) ∧
      (∀ x y : Fin 8, x ≠ y → j ≠ x → ∃ a b c e,
        exec (.mtom m (selOf x) (selOf i)) s = .next a ∧ EndsOk a ∧
        exec (.mtom m (selOf y) (selOf j)) a = .next b ∧ EndsOk b ∧
        exec (.mmul m (selOf d) (selOf x) (selOf y)) b = .next c ∧ EndsOk c ∧
        exec (.mfrom m (selOf d) (selOf d)) c = .next e ∧ EndsOk e ∧ e.w[d] = v.w[d])

/-- PADD checks both operands, writes their sum in canonical form and INF, and nothing else (42_point_arithmetic.md R166). -/
def Obligations.PaddWritesTheSumOfPoints : Prop :=
  ∀ (d i j : Fin 4) (s : State),
    let p := s.pt[i].point
    let q := s.pt[j].point
    (p.valid = true ∧ q.valid = true →
      CompletesTo (.padd (selOf d) (selOf i) (selOf j)) s (WritesPoint d (padd p q) s)) ∧
    (¬(p.valid = true ∧ q.valid = true) →
      Raises (.padd (selOf d) (selOf i) (selOf j)) s .pointNotOnCurve)

/-- PDBL checks its operand, writes its double in canonical form and INF, and nothing else (42_point_arithmetic.md R167). -/
def Obligations.PdblWritesTheDouble : Prop :=
  ∀ (d i : Fin 4) (s : State),
    let p := s.pt[i].point
    (p.valid = true → CompletesTo (.pdbl (selOf d) (selOf i)) s (WritesPoint d (padd p p) s)) ∧
    (p.valid = false → Raises (.pdbl (selOf d) (selOf i)) s .pointNotOnCurve)

/-- PMUL takes any 256-bit scalar, checks its point, writes pmul(k, P) and INF, and nothing else (42_point_arithmetic.md R173, 42_point_arithmetic.md R164). -/
def Obligations.PmulWritesTheScalarMultiple : Prop :=
  ∀ (d i : Fin 4) (j : Fin 8) (s : State),
    let p := s.pt[i].point
    (p.valid = true →
      CompletesTo (.pmul (selOf d) (selOf i) (selOf j)) s (WritesPoint d (pmul s.w[j].toNat p) s)) ∧
    (p.valid = false → Raises (.pmul (selOf d) (selOf i) (selOf j)) s .pointNotOnCurve)

/-- PCHK completes on a finite reduced point of the curve in the group of order n, and writes nothing (42_point_arithmetic.md R177, 42_point_arithmetic.md R176). -/
def Obligations.PchkValidatesAndWritesNothing : Prop :=
  ∀ (i : Fin 4) (s : State),
    let r := s.pt[i]
    let onC := onCurve r.x.toNat r.y.toNat
    let inGroup := pmul Config.n (.affine r.x.toNat r.y.toNat) = .inf
    (r.inf = false ∧ onC = true ∧ inGroup → CompletesTo (.pchk (selOf i)) s (fun t => Keeps s t [])) ∧
    (r.inf = true ∨ onC = false → Raises (.pchk (selOf i)) s .pointNotOnCurve)

/-- PLDG writes the base point, clears INF, and changes nothing else (42_point_arithmetic.md R168). -/
def Obligations.PldgLoadsTheBasePoint : Prop :=
  ∀ (d : Fin 4) (s : State),
    CompletesTo (.pldg (selOf d)) s (fun t =>
      WritesPoint d (.affine Config.gx Config.gy) s t ∧ t.pt[d].inf = false ∧ t.flags.inf = false)

/-- The sum of two points of the curve is a point of the curve (42_point_arithmetic.md R162, 42_point_arithmetic.md R160). -/
def Obligations.PaddStaysOnTheCurve : Prop :=
  ∀ p q : CurvePoint, p.valid = true → q.valid = true → (padd p q).valid = true

/-- The ladder gives INF for 0, P for 1, the double for 2, and INF for every multiple of INF (42_point_arithmetic.md R172). -/
def Obligations.LadderSmallScalars : Prop :=
  (∀ p : CurvePoint, pmul 0 p = .inf ∧ pmul 1 p = p ∧ pmul 2 p = padd p p) ∧
  (∀ k : Nat, pmul k .inf = .inf)

/-- IMPPRIV checks the length, then the range, then fills the slot; on an error the slot keeps what it held (43_key_material.md R192). -/
def Obligations.ImpprivChecksLengthThenRange : Prop :=
  ∀ (i : Fin 4) (len : Byte) (s : State),
    let v := Memory.readNat s.mem keyBase 32
    (len.toNat ≠ 32 → Raises (.imppriv (selOf i) len) s .invalidKeyLength) ∧
    (len.toNat = 32 → v = 0 ∨ Config.n ≤ v → Raises (.imppriv (selOf i) len) s .invalidScalarRange) ∧
    (len.toNat = 32 → 0 < v → v < Config.n →
      CompletesTo (.imppriv (selOf i) len) s
        (fun t => WritesKs i { d := BitVec.ofNat 256 v, valid := true } s t ∧ t.ks[i].d.toNat = v))

/-- IMPPUB checks the length, the tag and the point in that order, then fills the slot (43_key_material.md R195, 42_point_arithmetic.md R176). -/
def Obligations.ImppubChecksLengthTagAndPoint : Prop :=
  ∀ (j : Fin 4) (len : Byte) (s : State),
    let x := Memory.readNat s.mem (keyBase + 1) 32
    let y := Memory.readNat s.mem (keyBase + 33) 32
    let onC := onCurve x y
    let inGroup := pmul Config.n (.affine x y) = .inf
    let tagged := Memory.read s.mem keyBase = 0x04#8
    (len.toNat ≠ 65 → Raises (.imppub (selOf j) len) s .invalidKeyLength) ∧
    (len.toNat = 65 → ¬tagged → Raises (.imppub (selOf j) len) s .invalidKeyFormat) ∧
    (len.toNat = 65 → tagged → onC = false → Raises (.imppub (selOf j) len) s .pointNotOnCurve) ∧
    (len.toNat = 65 → tagged → onC = true → inGroup →
      CompletesTo (.imppub (selOf j) len) s
        (WritesKp j { x := BitVec.ofNat 256 x, y := BitVec.ofNat 256 y, valid := true } s))

/-- EXPPRIV and EXPPUB write all 68 bytes of KEYBUF and nothing else, or raise KeyNotValid (43_key_material.md R198, 43_key_material.md R199, 43_key_material.md R204). -/
def Obligations.ExportsWriteTheWholeBuffer : Prop :=
  ∀ (i : Fin 4) (s : State), Memory.wf s.mem →
    (s.ks[i].valid = true →
      CompletesTo (.exppriv (selOf i)) s (fun t =>
        StoresBytes 0x100 (be32 s.ks[i].d ++ List.replicate 36 0#8) s t ∧ Keeps s t [.mem])) ∧
    (s.ks[i].valid = false → Raises (.exppriv (selOf i)) s .keyNotValid) ∧
    (s.kp[i].valid = true →
      CompletesTo (.exppub (selOf i)) s (fun t =>
        StoresBytes 0x100 (0x04#8 :: (be32 s.kp[i].x ++ be32 s.kp[i].y ++ List.replicate 3 0#8)) s t ∧
        Keeps s t [.mem])) ∧
    (s.kp[i].valid = false → Raises (.exppub (selOf i)) s .keyNotValid)

/-- DERIVE writes d*G to the public slot and nothing else, or raises KeyNotValid (43_key_material.md R201, 43_key_material.md R204). -/
def Obligations.DeriveFillsThePublicSlot : Prop :=
  ∀ (j i : Fin 4) (s : State),
    (s.ks[i].valid = true →
      CompletesTo (.derive (selOf j) (selOf i)) s (fun t =>
        t.kp[j].valid = true ∧ WritesKp j t.kp[j] s t ∧
        ∀ x y, pmul s.ks[i].d.toNat basePoint = .affine x y →
          t.kp[j].x = BitVec.ofNat 256 x ∧ t.kp[j].y = BitVec.ofNat 256 y)) ∧
    (s.ks[i].valid = false → Raises (.derive (selOf j) (selOf i)) s .keyNotValid)

/-- DISPOSE zeroes its slot, valid or not, and changes nothing else (43_key_material.md R203). -/
def Obligations.DisposeEmptiesOnlyItsSlot : Prop :=
  ∀ (i : Fin 4) (s : State),
    CompletesTo (.dispose (selOf i)) s (WritesKs i { d := 0#256, valid := false } s)

/-- SIGN raises KeyNotValid for an empty slot, then NonceModeUnselected for modes 0 and 3, before any entropy request (45_ecdsa.md R244, 44_nonce_source.md R221, 60_exceptions.md R290). -/
def Obligations.SignChecksSlotThenMode : Prop :=
  ∀ (i : Fin 4) (s : State),
    (s.ks[i].valid = false → Raises (.sign (selOf i)) s .keyNotValid) ∧
    (s.ks[i].valid = true → s.nonceMode = 0#2 ∨ s.nonceMode = 3#2 →
      Raises (.sign (selOf i)) s .nonceModeUnselected)

/-- In random mode SIGN discards rejected answers one by one and signs with the first accepted one (45_ecdsa.md R244, 44_nonce_source.md R222, 44_nonce_source.md R223). -/
def Obligations.RandomSignUsesTheFirstAcceptedAnswer : Prop :=
  ∀ (i : Fin 4) (s : State) (rejected : List Word256) (c : Word256) (rest : List EntropyAnswer) (r t : Nat),
    Memory.wf s.mem → s.ks[i].valid = true → s.nonceMode = 1#2 →
    s.env.entropy.answers = rejected.map .ok ++ .ok c :: rest →
    (∀ b ∈ rejected, signCandidate s.ks[i].d.toNat (s.digest % Config.n) b.toNat = none) →
    Signs s.ks[i].d.toNat (s.digest % Config.n) c.toNat r t →
    CompletesTo (.sign (selOf i)) s (fun u =>
      StoresBytes 0x0C0 (be32 (BitVec.ofNat 256 r) ++ be32 (BitVec.ofNat 256 t)) s u ∧
      u.env = { s.env with entropy := s.env.entropy.consume rest } ∧ Keeps s u [.mem, .env])

/-- In random mode a Fail answer, the first or a later one, ends SIGN with EntropyUnavailable and nothing written (44_nonce_source.md R226, 44_nonce_source.md R222, 44_nonce_source.md R229, 60_exceptions.md R283).
What follows the answers that are ready is the model's choice (notes/assumptions/6). -/
def Obligations.RandomSignSurfacesEntropyFailure : Prop :=
  ∀ (i : Fin 4) (s : State) (rejected : List Word256),
    s.ks[i].valid = true → s.nonceMode = 1#2 →
    (∀ b ∈ rejected, signCandidate s.ks[i].d.toNat (s.digest % Config.n) b.toNat = none) →
    let fails := fun rest => ∃ u, exec (.sign (selOf i)) s = .next u ∧ u.seq = .idle ∧ u.status.done = true ∧
      u.status.err = true ∧ u.status.errcode = 0x07#8 ∧
      u.env = { s.env with entropy := s.env.entropy.consume rest } ∧ Keeps s u [.env]
    (∀ rest, s.env.entropy.answers = rejected.map .ok ++ .fail :: rest → fails rest) ∧
    (s.env.entropy.answers = rejected.map .ok → s.env.entropy.whenEmpty = .timesOut → fails []) ∧
    (s.env.entropy.answers = rejected.map .ok → s.env.entropy.whenEmpty = .silent →
      exec (.sign (selOf i)) s = .next { s with env := { s.env with entropy := s.env.entropy.await } })

/-- In deterministic mode SIGN signs with DetNonce at the first index whose candidate is accepted, and never asks for entropy (45_ecdsa.md R244, 44_nonce_source.md R224, 44_nonce_source.md R226). -/
def Obligations.DeterministicSignUsesTheFirstAcceptedIndex : Prop :=
  (∀ (r : Sel) (s : State), exec (.sign r) s = signWith Config.detNonce r s) ∧
  ∀ (nonce : Word256 → Word256 → Nat → Word256) (i : Fin 4) (s : State) (k r t : Nat),
    let e := s.digest % Config.n
    let c := fun u => (nonce s.ks[i].d (BitVec.ofNat 256 s.digest) u).toNat
    Memory.wf s.mem → s.ks[i].valid = true → s.nonceMode = 2#2 →
    (∀ u < k, signCandidate s.ks[i].d.toNat e (c u) = none) →
    Signs s.ks[i].d.toNat e (c k) r t →
    ∃ u, signWith nonce (selOf i) s = .next u ∧ EndsOk u ∧
      StoresBytes 0x0C0 (be32 (BitVec.ofNat 256 r) ++ be32 (BitVec.ofNat 256 t)) s u ∧ Keeps s u [.mem]

/-- In deterministic mode SIGN leaves the core busy exactly when no candidate index is ever accepted (45_ecdsa.md R246, 93_implementation_defined.md U10).
That the step then answers the same busy state is the model's form of U10 (notes/assumptions/8). -/
def Obligations.DeterministicSignEndsIffSomeIndexIsAccepted : Prop :=
  ∀ (nonce : Word256 → Word256 → Nat → Word256) (i : Fin 4) (s : State),
    let attempt := fun t => signCandidate s.ks[i].d.toNat (s.digest % Config.n)
      (nonce s.ks[i].d (BitVec.ofNat 256 s.digest) t).toNat
    s.seq = .busy → s.ks[i].valid = true → s.nonceMode = 2#2 →
    ((∃ u, signWith nonce (selOf i) s = .next u ∧ EndsOk u) ↔ ∃ t, attempt t ≠ none) ∧
    ((∀ t, attempt t = none) → signWith nonce (selOf i) s = .next s)

/-- A SIGN that completes without error leaves both components of SIGBUF in [1, n-1] (45_ecdsa.md R245, 44_nonce_source.md R220). -/
def Obligations.SignedComponentsAreInRange : Prop :=
  ∀ (i : Fin 4) (s u : State), Memory.wf s.mem → s.seq = .busy →
    exec (.sign (selOf i)) s = .next u → u.seq = .idle → u.status.err = false →
    (1 ≤ u.sigR ∧ u.sigR < Config.n) ∧ (1 ≤ u.sigS ∧ u.sigS < Config.n)

/-- In deterministic mode the signature is a function of the scalar and the digest alone (44_nonce_source.md R225). -/
def Obligations.DeterministicSignDependsOnKeyAndDigest : Prop :=
  ∀ (nonce : Word256 → Word256 → Nat → Word256) (i j : Fin 4) (s s' t t' : State),
    Memory.wf s.mem → Memory.wf s'.mem → s.nonceMode = 2#2 → s'.nonceMode = 2#2 →
    s.ks[i].valid = true → s'.ks[j].valid = true → s.ks[i].d = s'.ks[j].d → s.digest = s'.digest →
    s.seq = .busy → s'.seq = .busy →
    signWith nonce (selOf i) s = .next t → signWith nonce (selOf j) s' = .next t' → EndsOk t → EndsOk t' →
    ∀ k < 64, Memory.read t.mem (0x0C0 + k) = Memory.read t'.mem (0x0C0 + k)

/-- VERIFY raises KeyNotValid, then MalformedSignature for length or range, else writes OK from P.x mod n = r (45_ecdsa.md R250, 45_ecdsa.md R251). -/
def Obligations.VerifyDecidesTheSignature : Prop :=
  ∀ (j : Fin 4) (len : Byte) (s : State),
    let r := Memory.readNat s.mem 0x0C0 32
    let t := Memory.readNat s.mem 0x0E0 32
    let e := Memory.readNat s.mem 0x080 32 % Config.n
    let inRange := 0 < r ∧ r < Config.n ∧ 0 < t ∧ t < Config.n
    let w := inv t Config.n
    let q := CurvePoint.affine s.kp[j].x.toNat s.kp[j].y.toNat
    let sum := padd (pmul (e * w % Config.n) basePoint) (pmul (r * w % Config.n) q)
    (s.kp[j].valid = false → Raises (.verify (selOf j) len) s .keyNotValid) ∧
    (s.kp[j].valid = true → len.toNat ≠ 64 ∨ ¬inRange →
      Raises (.verify (selOf j) len) s .malformedSignature) ∧
    (s.kp[j].valid = true → len.toNat = 64 → inRange →
      CompletesTo (.verify (selOf j) len) s (fun u =>
        u.flags.eq = s.flags.eq ∧ u.flags.inf = s.flags.inf ∧
        (u.flags.ok = true ↔ ∃ x y, sum = .affine x y ∧ x % Config.n = r) ∧ Keeps s u [.flags]))

/-- DERIVE gives a finite point d*G for every scalar in range, and VERIFY with that key accepts what SIGN signed (43_key_material.md R201, 45_ecdsa.md R255, 45_ecdsa.md R256). -/
def Obligations.SignatureVerifies : Prop :=
  ∀ (i j : Fin 4) (s s1 : State), Memory.wf s.mem → s.ks[i].valid = true →
    0 < s.ks[i].d.toNat → s.ks[i].d.toNat < Config.n →
    exec (.derive (selOf j) (selOf i)) s = .next s1 →
    (∃ x y, pmul s.ks[i].d.toNat basePoint = .affine x y ∧ onCurve x y = true ∧ EndsOk s1 ∧
      s1.kp[j] = { x := BitVec.ofNat 256 x, y := BitVec.ofNat 256 y, valid := true }) ∧
    (∀ s2, exec (.sign (selOf i)) (s1.accept (encode (.sign (selOf i)))) = .next s2 → EndsOk s2 →
      CompletesTo (.verify (selOf j) 64#8) s2 (fun t => t.flags.ok = true))

/-- What a host read answers in every state, and that it changes nothing else; BusError for an access that does not exist (20_memory.md R63, 20_memory.md R66, 20_memory.md R69, 20_memory.md R70, 10_state.md R26, 10_state.md R33, 10_state.md R34, 10_state.md R39).
That the core takes no step on an access that does not exist is read from R70 (notes/assumptions/7). -/
def Obligations.ReadsHaveNoSideEffect : Prop :=
  ∀ (s : State) (off width : Nat) (v : Word32),
    (∃ r, s.hostAccess (.read off width) = { s with env := { s.env with response := some r } }) ∧
    (legalAccess off width → (s.hostAccess (.read off width)).env.response = some (.data (s.memRead off))) ∧
    (s.seq = .busy → 0x040 ≤ off → s.memRead off = 0#32) ∧
    s.memRead 0x000 = 0x50323536#32 ∧ s.memRead 0x004 = s.cmdLatch ∧ s.memRead 0x008 = s.statusWord ∧
    s.memRead 0x00C = s.flagsWord ∧ s.memRead 0x010 = s.cfgWord ∧ s.memRead 0x014 = s.intenWord ∧
    (off % 4 = 0 → 0x018 ≤ off → off < 0x040 → s.memRead off = 0#32) ∧
    (s.seq = .idle → s.memRead 0x400 = s.ptinfWord) ∧
    (s.seq = .idle → off % 4 = 0 → 0x040 ≤ off → off ≠ 0x400 → s.memRead off =
      s.windowByte (off + 3) ++ s.windowByte (off + 2) ++ s.windowByte (off + 1) ++ s.windowByte off) ∧
    (¬legalAccess off width →
      s.hostAccess (.read off width) = { s with env := { s.env with response := some .busError } } ∧
      s.hostAccess (.write off width v) = { s with env := { s.env with response := some .busError } })

/-- While the core is busy a write to any offset but CTRL changes nothing but WRDROP (R68). -/
def Obligations.BusyWritesAreDropped : Prop :=
  ∀ (s : State) (off : Nat) (v : Word32), s.seq = .busy → off ≠ 0x018 →
    s.memWrite off v = { s with status := { s.status with wrdrop := true } }

/-- The data window is the registers' big-endian bytes; a word written to it reads back, and all else stays (10_state.md R20, 10_state.md R23, 10_state.md R24, 10_state.md R26, 10_state.md R32, 20_memory.md R62, 20_memory.md R64, 20_memory.md R65, 20_memory.md R66). -/
def Obligations.WrittenWordReadsBack : Prop :=
  ∀ s : State,
    (∀ (i : Fin 8) (k : Fin 32),
      s.windowByte (0x200 + 0x20 * i + k) = BitVec.ofNat 8 (s.w[i].toNat / 256 ^ (31 - k.val))) ∧
    (∀ k : Fin 64, s.windowByte (0x040 + k) = BitVec.ofNat 8 (s.acc.toNat / 256 ^ (63 - k.val))) ∧
    (∀ (j : Fin 4) (k : Fin 32),
      s.windowByte (0x300 + 0x40 * j + k) = BitVec.ofNat 8 (s.pt[j].x.toNat / 256 ^ (31 - k.val)) ∧
      s.windowByte (0x320 + 0x40 * j + k) = BitVec.ofNat 8 (s.pt[j].y.toNat / 256 ^ (31 - k.val))) ∧
    (∀ k : Fin 32, s.windowByte (0x080 + k) = Memory.read s.mem (digBase + k)) ∧
    (∀ k : Fin 64, s.windowByte (0x0C0 + k) = Memory.read s.mem (sigBase + k)) ∧
    (∀ k : Fin 68, s.windowByte (0x100 + k) = Memory.read s.mem (keyBase + k)) ∧
    ∀ (off : Nat) (v : Word32), Memory.wf s.mem → s.seq = .idle → writableWord off →
      let t := s.memWrite off v
      t.memRead off = v ∧ (∀ o, o < off ∨ off + 4 ≤ o → t.windowByte o = s.windowByte o) ∧
      (∀ j : Fin 4, t.pt[j].inf = s.pt[j].inf) ∧ t.seq = s.seq ∧ t.status = s.status ∧
      Keeps s t [.w, .acc, .pt, .mem]

/-- On an idle core a write to a read-only or reserved offset changes nothing, and reserved offsets read zero (R67). -/
def Obligations.ReadOnlyOffsetsIgnoreWrites : Prop :=
  ∀ (s : State) (off : Nat) (v : Word32), s.seq = .idle → off % 4 = 0 → off ≤ 0xFFC →
    let reserved := (0x01C ≤ off ∧ off < 0x040) ∨ (0x0A0 ≤ off ∧ off < 0x0C0) ∨ (0x144 ≤ off ∧ off < 0x200) ∨
      (0x404 ≤ off ∧ off < 0x800) ∨ 0x8C0 ≤ off
    (off = 0x000 ∨ off = 0x00C ∨ (0x800 ≤ off ∧ off < 0x8C0) ∨ reserved → s.memWrite off v = s) ∧
    (reserved → s.memRead off = 0#32) ∧ s.memRead 0x018 = 0#32 ∧
    (v.getLsbD 0 = false → s.memWrite 0x018 v = s) ∧
    s.statusWord &&& 0xFFFF00F0#32 = 0#32 ∧ s.flagsWord &&& 0xFFFFFFF8#32 = 0#32 ∧
    s.cfgWord &&& 0xFFFFFFFC#32 = 0#32 ∧ s.intenWord &&& 0xFFFFFFFC#32 = 0#32 ∧
    s.ptinfWord &&& 0xFFFFFFF0#32 = 0#32 ∧
    (s.memWrite 0x010 v).cfgWord = v &&& 0x00000003#32 ∧ (s.memWrite 0x014 v).intenWord = v &&& 0x00000003#32 ∧
    (s.memWrite 0x400 v).ptinfWord = v &&& 0x0000000F#32 ∧
    (s.memWrite 0x008 v).statusWord &&& 0xFFFFFFF1#32 = s.statusWord &&& 0xFFFFFFF1#32

/-- Each curve constant reads as its 32-byte big-endian string in every idle state (10_state.md R40, 10_state.md R41, 20_memory.md R65, 20_memory.md R66). -/
def Obligations.ConstantsReadTheirValues : Prop :=
  ∀ (s : State) (c : Fin 6) (k : Fin 8), s.seq = .idle →
    let v := ([Config.p, Config.n, Config.a, Config.b, Config.gx, Config.gy].getD c 0)
    let byte := fun i : Nat => BitVec.ofNat 8 (v / 256 ^ (31 - (4 * k.val + i)))
    s.memRead (0x800 + 0x20 * c + 4 * k) = byte 3 ++ byte 2 ++ byte 1 ++ byte 0

/-- After a hardware reset or a soft reset every piece of state has its value of the reset table (R45). -/
def Obligations.ResetLeavesTheValuesOfTheTable : Prop :=
  ∀ (s t : State) (v : Word32), v.getLsbD 0 = true →
    t = State.reset ∨ takeTurn .hardwareReset s = .next t ∨ s.memWrite 0x018 v = t →
    (∀ i : Fin 8, t.w[i] = 0#256) ∧ t.acc = 0#512 ∧
    (∀ j : Fin 4, t.pt[j] = { x := 0#256, y := 0#256, inf := true }) ∧ t.memRead 0x400 = 0x0000000F#32 ∧
    (∀ i : Fin 4, t.ks[i] = { d := 0#256, valid := false }) ∧
    (∀ j : Fin 4, t.kp[j] = { x := 0#256, y := 0#256, valid := false }) ∧
    (∀ o : Nat, Memory.read t.mem o = 0#8) ∧ t.seq = .idle ∧ t.memRead 0x004 = 0#32 ∧
    t.memRead 0x008 = 0#32 ∧ t.memRead 0x00C = 0#32 ∧ t.memRead 0x010 = 0#32 ∧ t.memRead 0x014 = 0#32 ∧
    t.irq = false ∧ t.memRead 0x000 = 0x50323536#32 ∧
    (∀ (c : Fin 6) (i : Fin 32), t.windowByte (0x800 + 0x20 * c + i) = BitVec.ofNat 8
      ([Config.p, Config.n, Config.a, Config.b, Config.gx, Config.gy].getD c 0 / 256 ^ (31 - i.val)))

/-- A write of CTRL with bit 0 set resets the core at once, busy or not, as the reset input does (70_reset_and_hazards.md R320, 70_reset_and_hazards.md R322).
The model's choices: that a reset leaves the agenda and the port's last answer as they are (notes/assumptions/11), and
which answer is the one discarded (notes/assumptions/6). -/
def Obligations.SoftResetIsReset : Prop :=
  ∀ (s : State) (v : Word32), v.getLsbD 0 = true →
    let t := s.memWrite 0x018 v
    takeTurn .hardwareReset s = .next t ∧ t = { State.reset with env := t.env } ∧
    t.env.agenda = s.env.agenda ∧ t.env.response = s.env.response ∧
    (∀ i : Fin 4, t.ks[i] = { d := 0#256, valid := false } ∧ t.kp[i].valid = false) ∧
    (∀ i : Fin 8, t.w[i] = 0#256) ∧ t.acc = 0#512 ∧ (∀ o : Nat, Memory.read t.mem o = 0#8) ∧
    t.statusWord = 0#32 ∧ t.cfgWord = 0#32 ∧ t.intenWord = 0#32 ∧ engineTurn t = .next t ∧
    (s.env.entropy.outstanding = false → t.env.entropy = s.env.entropy) ∧
    (s.env.entropy.outstanding = true → t.env.entropy.outstanding = false ∧
      (∀ a rest, s.env.entropy.answers = a :: rest → t.env.entropy.answers = rest) ∧
      (s.env.entropy.answers = [] → ∀ a, (t.supplyEntropy a).env.entropy.answers = []))

/-- STATUS, FLAGS, CFG, INTEN and PTINF have their fields at their bits, and a write changes just its own fields (10_state.md R26, 10_state.md R35, 10_state.md R36, 10_state.md R37, 10_state.md R38, 20_memory.md R64). -/
def Obligations.StatusBitsClearByWritingOne : Prop :=
  ∀ (s : State) (v : Word32) (e : CommandError),
    s.statusWord.getLsbD 0 = s.busy ∧ s.statusWord.getLsbD 1 = s.status.done ∧
    s.statusWord.getLsbD 2 = s.status.err ∧ s.statusWord.getLsbD 3 = s.status.wrdrop ∧
    s.statusWord.extractLsb' 8 8 = s.status.errcode ∧ s.statusWord.extractLsb' 4 4 = 0#4 ∧
    s.statusWord.extractLsb' 16 16 = 0#16 ∧
    s.flagsWord.getLsbD 0 = s.flags.eq ∧ s.flagsWord.getLsbD 1 = s.flags.inf ∧
    s.flagsWord.getLsbD 2 = s.flags.ok ∧ (∀ j : Fin 4, s.ptinfWord.getLsbD j = s.pt[j].inf) ∧
    s.cfgWord.extractLsb' 0 2 = s.nonceMode ∧ s.intenWord.getLsbD 0 = s.inten.doneIe ∧
    s.intenWord.getLsbD 1 = s.inten.errIe ∧
    (s.seq = .idle →
      s.memWrite 0x010 v = { s with nonceMode := v.extractLsb' 0 2 } ∧
      s.memWrite 0x014 v = { s with inten := { doneIe := v.getLsbD 0, errIe := v.getLsbD 1 } } ∧
      s.memWrite 0x400 v = { s with pt := (s.memWrite 0x400 v).pt } ∧
      ∀ j : Fin 4, (s.memWrite 0x400 v).pt[j] = { s.pt[j] with inf := v.getLsbD j }) ∧
    (s.seq = .idle → s.memWrite 0x008 v = { s with status := { s.status with
      done := s.status.done && !v.getLsbD 1
      err := s.status.err && !v.getLsbD 2
      wrdrop := s.status.wrdrop && !v.getLsbD 3 } }) ∧
    (s.busy = true ↔ s.seq = .busy) ∧
    s.complete.status = { s.status with done := true, err := false, errcode := 0#8 } ∧
    (s.raise e).status = { s.status with done := true, err := true, errcode := e.code } ∧
    (s.accept v).status = { s.status with done := false, err := false, errcode := 0#8 } ∧
    s.dropWrite.status = { s.status with wrdrop := true } ∧
    s.resetCore.status = { done := false, err := false, wrdrop := false, errcode := 0#8 }

/-- irq is (DONE and DONE_IE) or (ERR and ERR_IE), a function of the state (R46). -/
def Obligations.IrqFollowsStatusAndInten : Prop :=
  ∀ s : State, s.irq = true ↔
    (s.status.done = true ∧ s.inten.doneIe = true) ∨ (s.status.err = true ∧ s.inten.errIe = true)

/-- No host access depends on a private key slot (10_state.md R28, 60_exceptions.md R305). -/
def Obligations.HostAccessRevealsNoPrivateKey : Prop :=
  ∀ (s : State) (ks : Vector PrivSlot 4) (a : HostAccess),
    ((s.withKs ks).hostAccess a).env = (s.hostAccess a).env ∧
    ((s.withKs ks).hostAccess a).withKs State.reset.ks = (s.hostAccess a).withKs State.reset.ks

/-- No command but EXPPRIV, DERIVE and SIGN depends on a private key slot (10_state.md R28, 45_ecdsa.md R252). -/
def Obligations.OnlyThreeCommandsReadAPrivateKey : Prop :=
  ∀ (i : Instr) (s : State) (ks : Vector PrivSlot 4), readsPrivate i = false →
    blankKs (exec i (s.withKs ks)) = blankKs (exec i s)

/-- The reset state satisfies the machine's invariant (10_state.md R45, 10_state.md R27, 10_state.md R30). -/
def Obligations.ResetSatisfiesTheInvariant : Prop :=
  State.reset.Inv ∧ State.reset.PubSound

/-- Every step keeps the machine's invariant (10_state.md R27, 10_state.md R30, 10_state.md R36, 60_exceptions.md R280, 60_exceptions.md R283, 60_exceptions.md R284). -/
def Obligations.StepKeepsTheInvariant : Prop :=
  ∀ s t : State, s.Inv → step s = .next t → t.Inv

/-- Every step keeps the public key slots on the curve and in the group of order n (10_state.md R30, 43_key_material.md R195, 43_key_material.md R201). -/
def Obligations.StepKeepsPublicSlotsSound : Prop :=
  ∀ s t : State, s.Inv → s.PubSound → step s = .next t → t.PubSound
end

