-- ==== Sys2Proof/Laws/Bytes.lean ====
section
/-! SUPPORT. The laws of byte strings: `BE32` and `BE` are inverse, and a byte replaced is read back. -/

namespace Sys2Proof.Machine

/-- `BE` of a string with one more byte at its low end. -/
theorem beNat_append_byte (bs : List Byte) (b : Byte) : beNat (bs ++ [b]) = beNat bs * 256 + b.toNat := by
  simp [beNat, List.foldl_append]

/-- `BE` of `k` bytes is below `256^k`. -/
theorem beNat_lt (bs : List Byte) : beNat bs < 256 ^ bs.length := by
  induction bs using List.reverseRecOn with
  | nil => simp [beNat]
  | append_singleton bs b ih =>
    rw [beNat_append_byte, List.length_append, List.length_singleton, Nat.pow_succ]
    have := b.isLt
    omega

theorem beByte_toNat {n : Nat} (v : BitVec n) (i : Nat) :
    (beByte v i).toNat = v.toNat / 2 ^ (n - 8 - 8 * i) % 256 := by
  simp [beByte, BitVec.extractLsb'_toNat, Nat.shiftRight_eq_div_pow]

/-- The first `k` bytes of a 256-bit value are its top bits. -/
theorem beNat_prefix (v : Word256) (k : Nat) (hk : k ≤ 32) :
    beNat ((List.range k).map (beByte v)) = v.toNat / 2 ^ (256 - 8 * k) := by
  induction k with
  | zero =>
    have := v.isLt
    simp only [List.range_zero, List.map_nil, beNat, List.foldl_nil, Nat.mul_zero, Nat.sub_zero]
    omega
  | succ k ih =>
    rw [List.range_succ, List.map_append, List.map_singleton, beNat_append_byte, ih (by omega), beByte_toNat,
      show 256 - 8 - 8 * k = 256 - 8 * (k + 1) by omega,
      show 256 - 8 * k = 256 - 8 * (k + 1) + 8 by omega, Nat.pow_add, ← Nat.div_div_eq_div_mul]
    omega

/-- `BE(BE32(v)) = v` (00_scope.md R8). -/
theorem beNat_be32 (v : Word256) : beNat (be32 v) = v.toNat := by
  simpa [be32] using beNat_prefix v 32 (by omega)

@[simp] theorem be32_length (v : Word256) : (be32 v).length = 32 := by simp [be32]

end Sys2Proof.Machine
end

