-- ==== Sys2Proof/Laws/Modular.lean ====
section
/-! SUPPORT. The facts about the constants that the spec states, and one lemma per arithmetic function. -/

namespace Sys2Proof.Machine

/-- `p = 2^256 - 2^224 + 2^192 + 2^96 - 1` (10_state.md R40). -/
theorem p_value : Config.p = 2 ^ 256 - 2 ^ 224 + 2 ^ 192 + 2 ^ 96 - 1 := by decide

/-- `a = p - 3` (10_state.md R40). -/
theorem a_value : Config.a = Config.p - 3 := by decide

/-- The base point satisfies the curve equation (10_state.md R40). -/
theorem basePoint_onCurve : onCurve Config.gx Config.gy = true := by decide

/-- Both moduli lie in `[2^255, 2^256)` (41_montgomery_barrett.md R145). -/
theorem modulus_bounds (m : Modulus) : 2 ^ 255 ≤ modulus m ∧ modulus m < 2 ^ 256 := by cases m <;> decide

theorem modulus_pos (m : Modulus) : 0 < modulus m := by cases m <;> decide

theorem one_lt_modulus (m : Modulus) : 1 < modulus m := by cases m <;> decide

/-- `p > n` (45_ecdsa.md R244). -/
theorem n_lt_p : Config.n < Config.p := by decide

/-- `R * Rinv(M) = 1 (mod M)` (41_montgomery_barrett.md R140). -/
theorem radix_radixInv (m : Modulus) : Config.radix * radixInv m % modulus m = 1 := by cases m <;> decide

/-- `Rinv(M)` is reduced (41_montgomery_barrett.md R140). -/
theorem radixInv_lt (m : Modulus) : 0 < radixInv m ∧ radixInv m < modulus m := by cases m <;> decide

/-- `M' * M = -1 (mod 2^256)` (41_montgomery_barrett.md R141). -/
theorem negInv_spec (m : Modulus) : (negInv m * modulus m + 1) % Config.radix = 0 := by cases m <;> decide

/-- The residue of an integer is below the modulus. -/
theorem residue_lt (v : Int) (m : Nat) (hm : 0 < m) : residue v m < m := by
  have h1 : (0 : Int) < m := by exact_mod_cast hm
  have h2 := Int.emod_nonneg v h1.ne'
  have h3 := Int.emod_lt_of_pos v h1
  unfold residue
  omega

/-- The residue of an integer as an integer. -/
theorem residue_cast (v : Int) (m : Nat) (hm : 0 < m) : ((residue v m : Nat) : Int) = v % m := by
  have h1 : (0 : Int) < m := by exact_mod_cast hm
  exact Int.toNat_of_nonneg (Int.emod_nonneg v h1.ne')

/-- Square and multiply computes the power (40_field_arithmetic.md R126). -/
theorem powMod_eq (m b : Nat) : ∀ k e : Nat, e < 2 ^ k → powMod m b k e = b ^ e % m := by
  intro k
  induction k with
  | zero =>
    intro e he
    have : e = 0 := by simpa using he
    simp [powMod, this]
  | succ k ih =>
    intro e he
    have hh : e / 2 < 2 ^ k := by rw [Nat.div_lt_iff_lt_mul (by omega)]; rw [Nat.pow_succ] at he; omega
    have hsq : b ^ (e / 2) % m * (b ^ (e / 2) % m) % m = b ^ (e / 2 + e / 2) % m := by
      rw [← Nat.mul_mod, ← Nat.pow_add]
    simp only [powMod, ih _ hh, hsq]
    split
    · rw [Nat.mod_mul_mod, ← Nat.pow_succ]
      congr 2
      omega
    · congr 2
      omega

/-- `inv(a, M) = a^(M-2) mod M` (40_field_arithmetic.md R126). -/
theorem inv_eq (m : Modulus) (a : Nat) : inv a (modulus m) = a ^ (modulus m - 2) % modulus m := by
  have := (modulus_bounds m).2
  exact powMod_eq _ _ _ _ (by omega)

theorem powMod_lt (m b k e : Nat) (hm : 0 < m) : powMod m b k e < m := by
  cases k with
  | zero => exact Nat.mod_lt _ hm
  | succ k => simp only [powMod]; split <;> exact Nat.mod_lt _ hm

theorem inv_lt (a m : Nat) (hm : 0 < m) : inv a m < m := powMod_lt _ _ _ _ hm

end Sys2Proof.Machine
end

