-- ==== Sys2Proof/Laws/State.lean ====
section
/-! SUPPORT. One lemma per field per update of the state, true by rfl, so that no later proof unfolds an update. -/

namespace Sys2Proof.Machine

section setEq
variable (s : State) (b : Bool)

@[simp] theorem State.setEq_w : (s.setEq b).w = s.w := rfl
@[simp] theorem State.setEq_acc : (s.setEq b).acc = s.acc := rfl
@[simp] theorem State.setEq_pt : (s.setEq b).pt = s.pt := rfl
@[simp] theorem State.setEq_ks : (s.setEq b).ks = s.ks := rfl
@[simp] theorem State.setEq_kp : (s.setEq b).kp = s.kp := rfl
@[simp] theorem State.setEq_mem : (s.setEq b).mem = s.mem := rfl
@[simp] theorem State.setEq_seq : (s.setEq b).seq = s.seq := rfl
@[simp] theorem State.setEq_cmdLatch : (s.setEq b).cmdLatch = s.cmdLatch := rfl
@[simp] theorem State.setEq_status : (s.setEq b).status = s.status := rfl
@[simp] theorem State.setEq_flags : (s.setEq b).flags = { s.flags with eq := b } := rfl
@[simp] theorem State.setEq_nonceMode : (s.setEq b).nonceMode = s.nonceMode := rfl
@[simp] theorem State.setEq_inten : (s.setEq b).inten = s.inten := rfl
@[simp] theorem State.setEq_env : (s.setEq b).env = s.env := rfl

end setEq

section setInf
variable (s : State) (b : Bool)

@[simp] theorem State.setInf_w : (s.setInf b).w = s.w := rfl
@[simp] theorem State.setInf_acc : (s.setInf b).acc = s.acc := rfl
@[simp] theorem State.setInf_pt : (s.setInf b).pt = s.pt := rfl
@[simp] theorem State.setInf_ks : (s.setInf b).ks = s.ks := rfl
@[simp] theorem State.setInf_kp : (s.setInf b).kp = s.kp := rfl
@[simp] theorem State.setInf_mem : (s.setInf b).mem = s.mem := rfl
@[simp] theorem State.setInf_seq : (s.setInf b).seq = s.seq := rfl
@[simp] theorem State.setInf_cmdLatch : (s.setInf b).cmdLatch = s.cmdLatch := rfl
@[simp] theorem State.setInf_status : (s.setInf b).status = s.status := rfl
@[simp] theorem State.setInf_flags : (s.setInf b).flags = { s.flags with inf := b } := rfl
@[simp] theorem State.setInf_nonceMode : (s.setInf b).nonceMode = s.nonceMode := rfl
@[simp] theorem State.setInf_inten : (s.setInf b).inten = s.inten := rfl
@[simp] theorem State.setInf_env : (s.setInf b).env = s.env := rfl

end setInf

section setOk
variable (s : State) (b : Bool)

@[simp] theorem State.setOk_w : (s.setOk b).w = s.w := rfl
@[simp] theorem State.setOk_acc : (s.setOk b).acc = s.acc := rfl
@[simp] theorem State.setOk_pt : (s.setOk b).pt = s.pt := rfl
@[simp] theorem State.setOk_ks : (s.setOk b).ks = s.ks := rfl
@[simp] theorem State.setOk_kp : (s.setOk b).kp = s.kp := rfl
@[simp] theorem State.setOk_mem : (s.setOk b).mem = s.mem := rfl
@[simp] theorem State.setOk_seq : (s.setOk b).seq = s.seq := rfl
@[simp] theorem State.setOk_cmdLatch : (s.setOk b).cmdLatch = s.cmdLatch := rfl
@[simp] theorem State.setOk_status : (s.setOk b).status = s.status := rfl
@[simp] theorem State.setOk_flags : (s.setOk b).flags = { s.flags with ok := b } := rfl
@[simp] theorem State.setOk_nonceMode : (s.setOk b).nonceMode = s.nonceMode := rfl
@[simp] theorem State.setOk_inten : (s.setOk b).inten = s.inten := rfl
@[simp] theorem State.setOk_env : (s.setOk b).env = s.env := rfl

end setOk

section writeW
variable (s : State) (i : Fin 8) (v : Word256)

@[simp] theorem State.writeW_w : (s.writeW i v).w = s.w.set i v := rfl
@[simp] theorem State.writeW_acc : (s.writeW i v).acc = s.acc := rfl
@[simp] theorem State.writeW_pt : (s.writeW i v).pt = s.pt := rfl
@[simp] theorem State.writeW_ks : (s.writeW i v).ks = s.ks := rfl
@[simp] theorem State.writeW_kp : (s.writeW i v).kp = s.kp := rfl
@[simp] theorem State.writeW_mem : (s.writeW i v).mem = s.mem := rfl
@[simp] theorem State.writeW_seq : (s.writeW i v).seq = s.seq := rfl
@[simp] theorem State.writeW_cmdLatch : (s.writeW i v).cmdLatch = s.cmdLatch := rfl
@[simp] theorem State.writeW_status : (s.writeW i v).status = s.status := rfl
@[simp] theorem State.writeW_flags : (s.writeW i v).flags = s.flags := rfl
@[simp] theorem State.writeW_nonceMode : (s.writeW i v).nonceMode = s.nonceMode := rfl
@[simp] theorem State.writeW_inten : (s.writeW i v).inten = s.inten := rfl
@[simp] theorem State.writeW_env : (s.writeW i v).env = s.env := rfl

end writeW

section writeAcc
variable (s : State) (v : Word512)

@[simp] theorem State.writeAcc_w : (s.writeAcc v).w = s.w := rfl
@[simp] theorem State.writeAcc_acc : (s.writeAcc v).acc = v := rfl
@[simp] theorem State.writeAcc_pt : (s.writeAcc v).pt = s.pt := rfl
@[simp] theorem State.writeAcc_ks : (s.writeAcc v).ks = s.ks := rfl
@[simp] theorem State.writeAcc_kp : (s.writeAcc v).kp = s.kp := rfl
@[simp] theorem State.writeAcc_mem : (s.writeAcc v).mem = s.mem := rfl
@[simp] theorem State.writeAcc_seq : (s.writeAcc v).seq = s.seq := rfl
@[simp] theorem State.writeAcc_cmdLatch : (s.writeAcc v).cmdLatch = s.cmdLatch := rfl
@[simp] theorem State.writeAcc_status : (s.writeAcc v).status = s.status := rfl
@[simp] theorem State.writeAcc_flags : (s.writeAcc v).flags = s.flags := rfl
@[simp] theorem State.writeAcc_nonceMode : (s.writeAcc v).nonceMode = s.nonceMode := rfl
@[simp] theorem State.writeAcc_inten : (s.writeAcc v).inten = s.inten := rfl
@[simp] theorem State.writeAcc_env : (s.writeAcc v).env = s.env := rfl

end writeAcc

section writePoint
variable (s : State) (j : Fin 4) (p : CurvePoint)

@[simp] theorem State.writePoint_w : (s.writePoint j p).w = s.w := rfl
@[simp] theorem State.writePoint_acc : (s.writePoint j p).acc = s.acc := rfl
@[simp] theorem State.writePoint_pt : (s.writePoint j p).pt = s.pt.set j p.toReg := rfl
@[simp] theorem State.writePoint_ks : (s.writePoint j p).ks = s.ks := rfl
@[simp] theorem State.writePoint_kp : (s.writePoint j p).kp = s.kp := rfl
@[simp] theorem State.writePoint_mem : (s.writePoint j p).mem = s.mem := rfl
@[simp] theorem State.writePoint_seq : (s.writePoint j p).seq = s.seq := rfl
@[simp] theorem State.writePoint_cmdLatch : (s.writePoint j p).cmdLatch = s.cmdLatch := rfl
@[simp] theorem State.writePoint_status : (s.writePoint j p).status = s.status := rfl
@[simp] theorem State.writePoint_flags : (s.writePoint j p).flags = s.flags := rfl
@[simp] theorem State.writePoint_nonceMode : (s.writePoint j p).nonceMode = s.nonceMode := rfl
@[simp] theorem State.writePoint_inten : (s.writePoint j p).inten = s.inten := rfl
@[simp] theorem State.writePoint_env : (s.writePoint j p).env = s.env := rfl

end writePoint

section writeKs
variable (s : State) (i : Fin 4) (k : PrivSlot)

@[simp] theorem State.writeKs_w : (s.writeKs i k).w = s.w := rfl
@[simp] theorem State.writeKs_acc : (s.writeKs i k).acc = s.acc := rfl
@[simp] theorem State.writeKs_pt : (s.writeKs i k).pt = s.pt := rfl
@[simp] theorem State.writeKs_ks : (s.writeKs i k).ks = s.ks.set i k := rfl
@[simp] theorem State.writeKs_kp : (s.writeKs i k).kp = s.kp := rfl
@[simp] theorem State.writeKs_mem : (s.writeKs i k).mem = s.mem := rfl
@[simp] theorem State.writeKs_seq : (s.writeKs i k).seq = s.seq := rfl
@[simp] theorem State.writeKs_cmdLatch : (s.writeKs i k).cmdLatch = s.cmdLatch := rfl
@[simp] theorem State.writeKs_status : (s.writeKs i k).status = s.status := rfl
@[simp] theorem State.writeKs_flags : (s.writeKs i k).flags = s.flags := rfl
@[simp] theorem State.writeKs_nonceMode : (s.writeKs i k).nonceMode = s.nonceMode := rfl
@[simp] theorem State.writeKs_inten : (s.writeKs i k).inten = s.inten := rfl
@[simp] theorem State.writeKs_env : (s.writeKs i k).env = s.env := rfl

end writeKs

section writeKp
variable (s : State) (j : Fin 4) (k : PubSlot)

@[simp] theorem State.writeKp_w : (s.writeKp j k).w = s.w := rfl
@[simp] theorem State.writeKp_acc : (s.writeKp j k).acc = s.acc := rfl
@[simp] theorem State.writeKp_pt : (s.writeKp j k).pt = s.pt := rfl
@[simp] theorem State.writeKp_ks : (s.writeKp j k).ks = s.ks := rfl
@[simp] theorem State.writeKp_kp : (s.writeKp j k).kp = s.kp.set j k := rfl
@[simp] theorem State.writeKp_mem : (s.writeKp j k).mem = s.mem := rfl
@[simp] theorem State.writeKp_seq : (s.writeKp j k).seq = s.seq := rfl
@[simp] theorem State.writeKp_cmdLatch : (s.writeKp j k).cmdLatch = s.cmdLatch := rfl
@[simp] theorem State.writeKp_status : (s.writeKp j k).status = s.status := rfl
@[simp] theorem State.writeKp_flags : (s.writeKp j k).flags = s.flags := rfl
@[simp] theorem State.writeKp_nonceMode : (s.writeKp j k).nonceMode = s.nonceMode := rfl
@[simp] theorem State.writeKp_inten : (s.writeKp j k).inten = s.inten := rfl
@[simp] theorem State.writeKp_env : (s.writeKp j k).env = s.env := rfl

end writeKp

section writeBuffer
variable (s : State) (a : Nat) (bs : List Byte)

@[simp] theorem State.writeBuffer_w : (s.writeBuffer a bs).w = s.w := rfl
@[simp] theorem State.writeBuffer_acc : (s.writeBuffer a bs).acc = s.acc := rfl
@[simp] theorem State.writeBuffer_pt : (s.writeBuffer a bs).pt = s.pt := rfl
@[simp] theorem State.writeBuffer_ks : (s.writeBuffer a bs).ks = s.ks := rfl
@[simp] theorem State.writeBuffer_kp : (s.writeBuffer a bs).kp = s.kp := rfl
@[simp] theorem State.writeBuffer_mem : (s.writeBuffer a bs).mem = Memory.writeBytes s.mem a bs := rfl
@[simp] theorem State.writeBuffer_seq : (s.writeBuffer a bs).seq = s.seq := rfl
@[simp] theorem State.writeBuffer_cmdLatch : (s.writeBuffer a bs).cmdLatch = s.cmdLatch := rfl
@[simp] theorem State.writeBuffer_status : (s.writeBuffer a bs).status = s.status := rfl
@[simp] theorem State.writeBuffer_flags : (s.writeBuffer a bs).flags = s.flags := rfl
@[simp] theorem State.writeBuffer_nonceMode : (s.writeBuffer a bs).nonceMode = s.nonceMode := rfl
@[simp] theorem State.writeBuffer_inten : (s.writeBuffer a bs).inten = s.inten := rfl
@[simp] theorem State.writeBuffer_env : (s.writeBuffer a bs).env = s.env := rfl

end writeBuffer

section accept
variable (s : State) (v : Word32)

@[simp] theorem State.accept_w : (s.accept v).w = s.w := rfl
@[simp] theorem State.accept_acc : (s.accept v).acc = s.acc := rfl
@[simp] theorem State.accept_pt : (s.accept v).pt = s.pt := rfl
@[simp] theorem State.accept_ks : (s.accept v).ks = s.ks := rfl
@[simp] theorem State.accept_kp : (s.accept v).kp = s.kp := rfl
@[simp] theorem State.accept_mem : (s.accept v).mem = s.mem := rfl
@[simp] theorem State.accept_seq : (s.accept v).seq = .busy := rfl
@[simp] theorem State.accept_cmdLatch : (s.accept v).cmdLatch = v := rfl
@[simp] theorem State.accept_status : (s.accept v).status =
    { s.status with done := false, err := false, errcode := 0#8 } := rfl
@[simp] theorem State.accept_flags : (s.accept v).flags = flagsClear := rfl
@[simp] theorem State.accept_nonceMode : (s.accept v).nonceMode = s.nonceMode := rfl
@[simp] theorem State.accept_inten : (s.accept v).inten = s.inten := rfl
@[simp] theorem State.accept_env : (s.accept v).env = s.env := rfl

end accept

section complete
variable (s : State)

@[simp] theorem State.complete_w : (s.complete).w = s.w := rfl
@[simp] theorem State.complete_acc : (s.complete).acc = s.acc := rfl
@[simp] theorem State.complete_pt : (s.complete).pt = s.pt := rfl
@[simp] theorem State.complete_ks : (s.complete).ks = s.ks := rfl
@[simp] theorem State.complete_kp : (s.complete).kp = s.kp := rfl
@[simp] theorem State.complete_mem : (s.complete).mem = s.mem := rfl
@[simp] theorem State.complete_seq : (s.complete).seq = .idle := rfl
@[simp] theorem State.complete_cmdLatch : (s.complete).cmdLatch = s.cmdLatch := rfl
@[simp] theorem State.complete_status : (s.complete).status =
    { s.status with done := true, err := false, errcode := 0#8 } := rfl
@[simp] theorem State.complete_flags : (s.complete).flags = s.flags := rfl
@[simp] theorem State.complete_nonceMode : (s.complete).nonceMode = s.nonceMode := rfl
@[simp] theorem State.complete_inten : (s.complete).inten = s.inten := rfl
@[simp] theorem State.complete_env : (s.complete).env = s.env := rfl

end complete

section raise
variable (s : State) (e : CommandError)

@[simp] theorem State.raise_w : (s.raise e).w = s.w := rfl
@[simp] theorem State.raise_acc : (s.raise e).acc = s.acc := rfl
@[simp] theorem State.raise_pt : (s.raise e).pt = s.pt := rfl
@[simp] theorem State.raise_ks : (s.raise e).ks = s.ks := rfl
@[simp] theorem State.raise_kp : (s.raise e).kp = s.kp := rfl
@[simp] theorem State.raise_mem : (s.raise e).mem = s.mem := rfl
@[simp] theorem State.raise_seq : (s.raise e).seq = .idle := rfl
@[simp] theorem State.raise_cmdLatch : (s.raise e).cmdLatch = s.cmdLatch := rfl
@[simp] theorem State.raise_status : (s.raise e).status =
    { s.status with done := true, err := true, errcode := e.code } := rfl
@[simp] theorem State.raise_flags : (s.raise e).flags = s.flags := rfl
@[simp] theorem State.raise_nonceMode : (s.raise e).nonceMode = s.nonceMode := rfl
@[simp] theorem State.raise_inten : (s.raise e).inten = s.inten := rfl
@[simp] theorem State.raise_env : (s.raise e).env = s.env := rfl

end raise

section clearStatus
variable (s : State) (v : Word32)

@[simp] theorem State.clearStatus_w : (s.clearStatus v).w = s.w := rfl
@[simp] theorem State.clearStatus_acc : (s.clearStatus v).acc = s.acc := rfl
@[simp] theorem State.clearStatus_pt : (s.clearStatus v).pt = s.pt := rfl
@[simp] theorem State.clearStatus_ks : (s.clearStatus v).ks = s.ks := rfl
@[simp] theorem State.clearStatus_kp : (s.clearStatus v).kp = s.kp := rfl
@[simp] theorem State.clearStatus_mem : (s.clearStatus v).mem = s.mem := rfl
@[simp] theorem State.clearStatus_seq : (s.clearStatus v).seq = s.seq := rfl
@[simp] theorem State.clearStatus_cmdLatch : (s.clearStatus v).cmdLatch = s.cmdLatch := rfl
@[simp] theorem State.clearStatus_status : (s.clearStatus v).status =
    { s.status with done := s.status.done && !v.getLsbD 1, err := s.status.err && !v.getLsbD 2, wrdrop := s.status.wrdrop && !v.getLsbD 3 } := rfl
@[simp] theorem State.clearStatus_flags : (s.clearStatus v).flags = s.flags := rfl
@[simp] theorem State.clearStatus_nonceMode : (s.clearStatus v).nonceMode = s.nonceMode := rfl
@[simp] theorem State.clearStatus_inten : (s.clearStatus v).inten = s.inten := rfl
@[simp] theorem State.clearStatus_env : (s.clearStatus v).env = s.env := rfl

end clearStatus

section setAgenda
variable (s : State) (ts : List Turn)

@[simp] theorem State.setAgenda_w : (s.setAgenda ts).w = s.w := rfl
@[simp] theorem State.setAgenda_acc : (s.setAgenda ts).acc = s.acc := rfl
@[simp] theorem State.setAgenda_pt : (s.setAgenda ts).pt = s.pt := rfl
@[simp] theorem State.setAgenda_ks : (s.setAgenda ts).ks = s.ks := rfl
@[simp] theorem State.setAgenda_kp : (s.setAgenda ts).kp = s.kp := rfl
@[simp] theorem State.setAgenda_mem : (s.setAgenda ts).mem = s.mem := rfl
@[simp] theorem State.setAgenda_seq : (s.setAgenda ts).seq = s.seq := rfl
@[simp] theorem State.setAgenda_cmdLatch : (s.setAgenda ts).cmdLatch = s.cmdLatch := rfl
@[simp] theorem State.setAgenda_status : (s.setAgenda ts).status = s.status := rfl
@[simp] theorem State.setAgenda_flags : (s.setAgenda ts).flags = s.flags := rfl
@[simp] theorem State.setAgenda_nonceMode : (s.setAgenda ts).nonceMode = s.nonceMode := rfl
@[simp] theorem State.setAgenda_inten : (s.setAgenda ts).inten = s.inten := rfl
@[simp] theorem State.setAgenda_env : (s.setAgenda ts).env = { s.env with agenda := ts } := rfl

end setAgenda

section supplyEntropy
variable (s : State) (a : EntropyAnswer)

@[simp] theorem State.supplyEntropy_w : (s.supplyEntropy a).w = s.w := rfl
@[simp] theorem State.supplyEntropy_acc : (s.supplyEntropy a).acc = s.acc := rfl
@[simp] theorem State.supplyEntropy_pt : (s.supplyEntropy a).pt = s.pt := rfl
@[simp] theorem State.supplyEntropy_ks : (s.supplyEntropy a).ks = s.ks := rfl
@[simp] theorem State.supplyEntropy_kp : (s.supplyEntropy a).kp = s.kp := rfl
@[simp] theorem State.supplyEntropy_mem : (s.supplyEntropy a).mem = s.mem := rfl
@[simp] theorem State.supplyEntropy_seq : (s.supplyEntropy a).seq = s.seq := rfl
@[simp] theorem State.supplyEntropy_cmdLatch : (s.supplyEntropy a).cmdLatch = s.cmdLatch := rfl
@[simp] theorem State.supplyEntropy_status : (s.supplyEntropy a).status = s.status := rfl
@[simp] theorem State.supplyEntropy_flags : (s.supplyEntropy a).flags = s.flags := rfl
@[simp] theorem State.supplyEntropy_nonceMode : (s.supplyEntropy a).nonceMode = s.nonceMode := rfl
@[simp] theorem State.supplyEntropy_inten : (s.supplyEntropy a).inten = s.inten := rfl
@[simp] theorem State.supplyEntropy_env : (s.supplyEntropy a).env =
    { s.env with entropy := s.env.entropy.supply a } := rfl

end supplyEntropy

section setEntropy
variable (s : State) (e : EntropySource)

@[simp] theorem State.setEntropy_w : (s.setEntropy e).w = s.w := rfl
@[simp] theorem State.setEntropy_acc : (s.setEntropy e).acc = s.acc := rfl
@[simp] theorem State.setEntropy_pt : (s.setEntropy e).pt = s.pt := rfl
@[simp] theorem State.setEntropy_ks : (s.setEntropy e).ks = s.ks := rfl
@[simp] theorem State.setEntropy_kp : (s.setEntropy e).kp = s.kp := rfl
@[simp] theorem State.setEntropy_mem : (s.setEntropy e).mem = s.mem := rfl
@[simp] theorem State.setEntropy_seq : (s.setEntropy e).seq = s.seq := rfl
@[simp] theorem State.setEntropy_cmdLatch : (s.setEntropy e).cmdLatch = s.cmdLatch := rfl
@[simp] theorem State.setEntropy_status : (s.setEntropy e).status = s.status := rfl
@[simp] theorem State.setEntropy_flags : (s.setEntropy e).flags = s.flags := rfl
@[simp] theorem State.setEntropy_nonceMode : (s.setEntropy e).nonceMode = s.nonceMode := rfl
@[simp] theorem State.setEntropy_inten : (s.setEntropy e).inten = s.inten := rfl
@[simp] theorem State.setEntropy_env : (s.setEntropy e).env =
    { s.env with entropy := e } := rfl

end setEntropy

section respond
variable (s : State) (r : HostResponse)

@[simp] theorem State.respond_w : (s.respond r).w = s.w := rfl
@[simp] theorem State.respond_acc : (s.respond r).acc = s.acc := rfl
@[simp] theorem State.respond_pt : (s.respond r).pt = s.pt := rfl
@[simp] theorem State.respond_ks : (s.respond r).ks = s.ks := rfl
@[simp] theorem State.respond_kp : (s.respond r).kp = s.kp := rfl
@[simp] theorem State.respond_mem : (s.respond r).mem = s.mem := rfl
@[simp] theorem State.respond_seq : (s.respond r).seq = s.seq := rfl
@[simp] theorem State.respond_cmdLatch : (s.respond r).cmdLatch = s.cmdLatch := rfl
@[simp] theorem State.respond_status : (s.respond r).status = s.status := rfl
@[simp] theorem State.respond_flags : (s.respond r).flags = s.flags := rfl
@[simp] theorem State.respond_nonceMode : (s.respond r).nonceMode = s.nonceMode := rfl
@[simp] theorem State.respond_inten : (s.respond r).inten = s.inten := rfl
@[simp] theorem State.respond_env : (s.respond r).env = { s.env with response := some r } := rfl

end respond

section dropWrite
variable (s : State)

@[simp] theorem State.dropWrite_w : (s.dropWrite).w = s.w := rfl
@[simp] theorem State.dropWrite_acc : (s.dropWrite).acc = s.acc := rfl
@[simp] theorem State.dropWrite_pt : (s.dropWrite).pt = s.pt := rfl
@[simp] theorem State.dropWrite_ks : (s.dropWrite).ks = s.ks := rfl
@[simp] theorem State.dropWrite_kp : (s.dropWrite).kp = s.kp := rfl
@[simp] theorem State.dropWrite_mem : (s.dropWrite).mem = s.mem := rfl
@[simp] theorem State.dropWrite_seq : (s.dropWrite).seq = s.seq := rfl
@[simp] theorem State.dropWrite_cmdLatch : (s.dropWrite).cmdLatch = s.cmdLatch := rfl
@[simp] theorem State.dropWrite_status : (s.dropWrite).status = { s.status with wrdrop := true } := rfl
@[simp] theorem State.dropWrite_flags : (s.dropWrite).flags = s.flags := rfl
@[simp] theorem State.dropWrite_nonceMode : (s.dropWrite).nonceMode = s.nonceMode := rfl
@[simp] theorem State.dropWrite_inten : (s.dropWrite).inten = s.inten := rfl
@[simp] theorem State.dropWrite_env : (s.dropWrite).env = s.env := rfl

end dropWrite

section writePtinf
variable (s : State) (v : Word32)

@[simp] theorem State.writePtinf_w : (s.writePtinf v).w = s.w := rfl
@[simp] theorem State.writePtinf_acc : (s.writePtinf v).acc = s.acc := rfl
@[simp] theorem State.writePtinf_pt : (s.writePtinf v).pt =
    Vector.ofFn (fun j : Fin 4 => { s.pt[j] with inf := v.getLsbD j }) := rfl
@[simp] theorem State.writePtinf_ks : (s.writePtinf v).ks = s.ks := rfl
@[simp] theorem State.writePtinf_kp : (s.writePtinf v).kp = s.kp := rfl
@[simp] theorem State.writePtinf_mem : (s.writePtinf v).mem = s.mem := rfl
@[simp] theorem State.writePtinf_seq : (s.writePtinf v).seq = s.seq := rfl
@[simp] theorem State.writePtinf_cmdLatch : (s.writePtinf v).cmdLatch = s.cmdLatch := rfl
@[simp] theorem State.writePtinf_status : (s.writePtinf v).status = s.status := rfl
@[simp] theorem State.writePtinf_flags : (s.writePtinf v).flags = s.flags := rfl
@[simp] theorem State.writePtinf_nonceMode : (s.writePtinf v).nonceMode = s.nonceMode := rfl
@[simp] theorem State.writePtinf_inten : (s.writePtinf v).inten = s.inten := rfl
@[simp] theorem State.writePtinf_env : (s.writePtinf v).env = s.env := rfl

end writePtinf

section writeCfg
variable (s : State) (v : Word32)

@[simp] theorem State.writeCfg_w : (s.writeCfg v).w = s.w := rfl
@[simp] theorem State.writeCfg_acc : (s.writeCfg v).acc = s.acc := rfl
@[simp] theorem State.writeCfg_pt : (s.writeCfg v).pt = s.pt := rfl
@[simp] theorem State.writeCfg_ks : (s.writeCfg v).ks = s.ks := rfl
@[simp] theorem State.writeCfg_kp : (s.writeCfg v).kp = s.kp := rfl
@[simp] theorem State.writeCfg_mem : (s.writeCfg v).mem = s.mem := rfl
@[simp] theorem State.writeCfg_seq : (s.writeCfg v).seq = s.seq := rfl
@[simp] theorem State.writeCfg_cmdLatch : (s.writeCfg v).cmdLatch = s.cmdLatch := rfl
@[simp] theorem State.writeCfg_status : (s.writeCfg v).status = s.status := rfl
@[simp] theorem State.writeCfg_flags : (s.writeCfg v).flags = s.flags := rfl
@[simp] theorem State.writeCfg_nonceMode : (s.writeCfg v).nonceMode = v.extractLsb' 0 2 := rfl
@[simp] theorem State.writeCfg_inten : (s.writeCfg v).inten = s.inten := rfl
@[simp] theorem State.writeCfg_env : (s.writeCfg v).env = s.env := rfl

end writeCfg

section writeInten
variable (s : State) (v : Word32)

@[simp] theorem State.writeInten_w : (s.writeInten v).w = s.w := rfl
@[simp] theorem State.writeInten_acc : (s.writeInten v).acc = s.acc := rfl
@[simp] theorem State.writeInten_pt : (s.writeInten v).pt = s.pt := rfl
@[simp] theorem State.writeInten_ks : (s.writeInten v).ks = s.ks := rfl
@[simp] theorem State.writeInten_kp : (s.writeInten v).kp = s.kp := rfl
@[simp] theorem State.writeInten_mem : (s.writeInten v).mem = s.mem := rfl
@[simp] theorem State.writeInten_seq : (s.writeInten v).seq = s.seq := rfl
@[simp] theorem State.writeInten_cmdLatch : (s.writeInten v).cmdLatch = s.cmdLatch := rfl
@[simp] theorem State.writeInten_status : (s.writeInten v).status = s.status := rfl
@[simp] theorem State.writeInten_flags : (s.writeInten v).flags = s.flags := rfl
@[simp] theorem State.writeInten_nonceMode : (s.writeInten v).nonceMode = s.nonceMode := rfl
@[simp] theorem State.writeInten_inten : (s.writeInten v).inten =
    { doneIe := v.getLsbD 0, errIe := v.getLsbD 1 } := rfl
@[simp] theorem State.writeInten_env : (s.writeInten v).env = s.env := rfl

end writeInten

section pointResult
variable (s : State) (j : Fin 4) (p : CurvePoint)

@[simp] theorem State.pointResult_w : (s.pointResult j p).w = s.w := rfl
@[simp] theorem State.pointResult_acc : (s.pointResult j p).acc = s.acc := rfl
@[simp] theorem State.pointResult_pt : (s.pointResult j p).pt = s.pt.set j p.toReg := rfl
@[simp] theorem State.pointResult_ks : (s.pointResult j p).ks = s.ks := rfl
@[simp] theorem State.pointResult_kp : (s.pointResult j p).kp = s.kp := rfl
@[simp] theorem State.pointResult_mem : (s.pointResult j p).mem = s.mem := rfl
@[simp] theorem State.pointResult_seq : (s.pointResult j p).seq = s.seq := rfl
@[simp] theorem State.pointResult_cmdLatch : (s.pointResult j p).cmdLatch = s.cmdLatch := rfl
@[simp] theorem State.pointResult_status : (s.pointResult j p).status = s.status := rfl
@[simp] theorem State.pointResult_flags : (s.pointResult j p).flags = { s.flags with inf := p == .inf } := rfl
@[simp] theorem State.pointResult_nonceMode : (s.pointResult j p).nonceMode = s.nonceMode := rfl
@[simp] theorem State.pointResult_inten : (s.pointResult j p).inten = s.inten := rfl
@[simp] theorem State.pointResult_env : (s.pointResult j p).env = s.env := rfl

end pointResult

section resetCore
variable (s : State)

@[simp] theorem State.resetCore_w : (s.resetCore).w = State.reset.w := rfl
@[simp] theorem State.resetCore_acc : (s.resetCore).acc = State.reset.acc := rfl
@[simp] theorem State.resetCore_pt : (s.resetCore).pt = State.reset.pt := rfl
@[simp] theorem State.resetCore_ks : (s.resetCore).ks = State.reset.ks := rfl
@[simp] theorem State.resetCore_kp : (s.resetCore).kp = State.reset.kp := rfl
@[simp] theorem State.resetCore_mem : (s.resetCore).mem = State.reset.mem := rfl
@[simp] theorem State.resetCore_seq : (s.resetCore).seq = State.reset.seq := rfl
@[simp] theorem State.resetCore_cmdLatch : (s.resetCore).cmdLatch = State.reset.cmdLatch := rfl
@[simp] theorem State.resetCore_status : (s.resetCore).status = State.reset.status := rfl
@[simp] theorem State.resetCore_flags : (s.resetCore).flags = State.reset.flags := rfl
@[simp] theorem State.resetCore_nonceMode : (s.resetCore).nonceMode = State.reset.nonceMode := rfl
@[simp] theorem State.resetCore_inten : (s.resetCore).inten = State.reset.inten := rfl
@[simp] theorem State.resetCore_env : (s.resetCore).env =
    { s.env with entropy := s.env.entropy.abandonRequest } := rfl

end resetCore

/-- Setting the agenda to what it is changes nothing. -/
theorem State.setAgenda_self (s : State) : s.setAgenda s.env.agenda = s := rfl

/-- Leaving the entropy source as it is changes nothing. -/
theorem State.setEntropy_self (s : State) : s.setEntropy s.env.entropy = s := rfl

/-- A write to a register is read back. -/
theorem State.writeW_get (s : State) (i : Fin 8) (v : Word256) : (s.writeW i v).w[i] = v := by simp

/-- A write to a register leaves every other one. -/
theorem State.writeW_get_ne (s : State) (i j : Fin 8) (v : Word256) (h : j ≠ i) : (s.writeW i v).w[j] = s.w[j] := by
  have hij : (i : Nat) ≠ j := fun e => h (Fin.ext e.symm)
  simp [Vector.getElem_set_ne, hij]

/-- A busy core reads 1 in `BUSY`. -/
theorem State.busy_iff (s : State) : s.busy = true ↔ s.seq = .busy := by simp [State.busy]

end Sys2Proof.Machine
end

