-- ==== Sys2Proof/Laws/Ops.lean ====
section
/-! SUPPORT. What each shared operation can do, said once: operand checks, the end of a command, the nonce search, and the
step. -/

namespace Sys2Proof.Machine

section Checks

/-- A check followed by the rest of a command yields a value exactly when both do. -/
theorem checked_bind_ok {α β : Type} (x : Checked α) (f : α → Checked β) (b : β) :
    (x >>= f) = .ok b ↔ ∃ a, x = .ok a ∧ f a = .ok b := by
  cases x <;> simp [bind, Except.bind]

/-- A check followed by the rest of a command raises what the check raises, else what the rest raises. -/
theorem checked_bind_error {α β : Type} (x : Checked α) (f : α → Checked β) (e : CommandError) :
    (x >>= f) = .error e ↔ x = .error e ∨ ∃ a, x = .ok a ∧ f a = .error e := by
  cases x <;> simp [bind, Except.bind]

@[simp] theorem checked_ok_bind {α β : Type} (a : α) (f : α → Checked β) :
    ((Except.ok a : Checked α) >>= f) = f a := rfl

@[simp] theorem checked_error_bind {α β : Type} (e : CommandError) (f : α → Checked β) :
    ((Except.error e : Checked α) >>= f) = .error e := rfl

theorem raiseIf_ok (c : Prop) [Decidable c] (e : CommandError) : raiseIf c e = .ok () ↔ ¬c := by
  unfold raiseIf; split <;> simp_all

theorem raiseIf_error (c : Prop) [Decidable c] (e f : CommandError) : raiseIf c e = .error f ↔ c ∧ f = e := by
  unfold raiseIf; split <;> simp_all [eq_comm]

/-- A `w` selector in range selects that register. -/
theorem wSel_of_lt (r : Sel) (h : r.toNat < 8) : wSel r = .ok ⟨r.toNat, h⟩ := by simp [wSel, h]

theorem wSel_ok (r : Sel) (i : Fin 8) : wSel r = .ok i ↔ i.val = r.toNat := by
  unfold wSel
  split
  · simp [Fin.ext_iff, eq_comm]
  · have := i.isLt; simp; omega

theorem wSel_error (r : Sel) (e : CommandError) : wSel r = .error e ↔ 8 ≤ r.toNat ∧ e = .illegalCommand := by
  unfold wSel
  split <;> simp_all [eq_comm]

/-- A slot selector in range selects that slot. -/
theorem slotSel_of_lt (r : Sel) (h : r.toNat < 4) : slotSel r = .ok ⟨r.toNat, h⟩ := by simp [slotSel, h]

theorem slotSel_ok (r : Sel) (i : Fin 4) : slotSel r = .ok i ↔ i.val = r.toNat := by
  unfold slotSel
  split
  · simp [Fin.ext_iff, eq_comm]
  · have := i.isLt; simp; omega

theorem slotSel_error (r : Sel) (e : CommandError) :
    slotSel r = .error e ↔ 4 ≤ r.toNat ∧ e = .illegalCommand := by
  unfold slotSel
  split <;> simp_all [eq_comm]

theorem reducedOperand_ok (m : Modulus) (v : Word256) (a : Nat) :
    reducedOperand m v = .ok a ↔ v.toNat < modulus m ∧ a = v.toNat := by
  unfold reducedOperand
  split <;> rename_i h <;> simp [h]
  exact eq_comm

theorem reducedOperand_error (m : Modulus) (v : Word256) (e : CommandError) :
    reducedOperand m v = .error e ↔ modulus m ≤ v.toNat ∧ e = .invalidOperand := by
  unfold reducedOperand
  split <;> rename_i h
  · simp [Nat.not_le.mpr h]
  · simp only [Except.error.injEq, Nat.not_lt.mp h, true_and]
    exact eq_comm

theorem pointOperand_ok (r : PointReg) (p : CurvePoint) :
    pointOperand r = .ok p ↔ r.point.valid = true ∧ p = r.point := by
  unfold pointOperand
  split <;> rename_i h <;> simp [h]
  exact eq_comm

theorem pointOperand_error (r : PointReg) (e : CommandError) :
    pointOperand r = .error e ↔ r.point.valid = false ∧ e = .pointNotOnCurve := by
  unfold pointOperand
  split <;> rename_i h <;> simp [h]
  exact eq_comm

theorem privOperand_ok (k : PrivSlot) (d : Word256) : privOperand k = .ok d ↔ k.valid = true ∧ d = k.d := by
  unfold privOperand
  split <;> rename_i h <;> simp [h]
  exact eq_comm

theorem privOperand_error (k : PrivSlot) (e : CommandError) :
    privOperand k = .error e ↔ k.valid = false ∧ e = .keyNotValid := by
  unfold privOperand
  split <;> rename_i h <;> simp [h]
  exact eq_comm

theorem pubOperand_ok (k : PubSlot) (q : Word256 × Word256) :
    pubOperand k = .ok q ↔ k.valid = true ∧ q = (k.x, k.y) := by
  unfold pubOperand
  split <;> rename_i h <;> simp [h]
  exact eq_comm

theorem pubOperand_error (k : PubSlot) (e : CommandError) :
    pubOperand k = .error e ↔ k.valid = false ∧ e = .keyNotValid := by
  unfold pubOperand
  split <;> rename_i h <;> simp [h]
  exact eq_comm

theorem validated_ok (x y : Nat) : validated x y = .ok () ↔ validate x y = .valid := by
  unfold validated; split <;> simp_all

/-- Validation accepts exactly the reduced pairs on the curve of order `n` (42_point_arithmetic.md R176). -/
theorem validate_valid (x y : Nat) :
    validate x y = .valid ↔ onCurve x y = true ∧ pmul Config.n (.affine x y) = .inf := by
  unfold validate onCurve
  cases h1 : coordsReduced x y <;> cases h2 : curveEquation x y <;> simp

end Checks

section Ends

/-- A command always ends in a next state: completed with its writes, or with an error and none of them. -/
theorem conclude_cases (s : State) (e : Checked State) :
    (∃ t, e = .ok t ∧ s.conclude e = .next t.complete) ∨
    (∃ err, e = .error err ∧ s.conclude e = .next (s.raise err)) := by
  cases e with
  | ok t => exact .inl ⟨t, rfl, rfl⟩
  | error err => exact .inr ⟨err, rfl, rfl⟩

@[simp] theorem conclude_ok (s t : State) : s.conclude (.ok t) = .next t.complete := rfl

@[simp] theorem conclude_error (s : State) (e : CommandError) : s.conclude (.error e) = .next (s.raise e) := rfl

/-- If a command's end is a next state, that is its completion or its error. -/
theorem conclude_next (s t : State) (e : Checked State) (h : s.conclude e = .next t) :
    (∃ u, e = .ok u ∧ t = u.complete) ∨ (∃ err, e = .error err ∧ t = s.raise err) := by
  cases e with
  | ok u => exact .inl ⟨u, rfl, by simpa using h.symm⟩
  | error err => exact .inr ⟨err, rfl, by simpa using h.symm⟩

/-- Every error has a code of its own that is not zero (60_exceptions.md R284). -/
theorem code_ne_zero (e : CommandError) : e.code ≠ 0#8 := by cases e <;> decide

theorem code_injective (e f : CommandError) (h : e.code = f.code) : e = f := by
  cases e <;> cases f <;> first | rfl | exact absurd h (by decide)

end Ends

section NonceSearch

/-- A signature candidate lies in `[1, n-1]` in both components (45_ecdsa.md R245). -/
theorem signCandidate_range (d e c r t : Nat) (h : signCandidate d e c = some (r, t)) :
    (0 < c ∧ c < Config.n) ∧ (0 < r ∧ r < Config.n) ∧ (0 < t ∧ t < Config.n) := by
  have hn : 0 < Config.n := by decide
  unfold signCandidate at h
  split at h
  · cases h
  · rename_i hc
    dsimp only at h
    split at h
    · cases h
    · rename_i hr
      split at h
      · cases h
      · rename_i ht
        obtain ⟨rfl, rfl⟩ := Prod.mk.inj (Option.some.inj h)
        exact ⟨by omega, ⟨Nat.pos_of_ne_zero hr, Nat.mod_lt _ hn⟩, ⟨Nat.pos_of_ne_zero ht, Nat.mod_lt _ hn⟩⟩

/-- A signature found among the answers comes from one of them (44_nonce_source.md R223). -/
theorem searchRandom_signed (attempt : Nat → Option (Nat × Nat)) (e after : EntropySource) (answers : List EntropyAnswer)
    (r t : Nat) (h : searchRandom attempt e answers = .signed r t after) :
    ∃ b, .ok b ∈ answers ∧ attempt b.toNat = some (r, t) := by
  induction answers with
  | nil => simp only [searchRandom] at h; split at h <;> simp at h
  | cons a rest ih =>
    cases a with
    | fail => simp [searchRandom] at h
    | ok b =>
      simp only [searchRandom] at h
      split at h
      · rename_i hb
        injection h with h1 h2 h3
        subst h1; subst h2
        exact ⟨b, by simp, hb⟩
      · obtain ⟨c, hc, hcs⟩ := ih h
        exact ⟨c, by simp [hc], hcs⟩

/-- The loop over indices unfolded once. -/
theorem searchIndexed_unfold (attempt : Nat → Option (Nat × Nat)) (t : Nat) :
    searchIndexed attempt t = (attempt t).or (searchIndexed attempt (t + 1)) := by
  rw [searchIndexed.eq_def]
  cases attempt t <;> simp

/-- The loop over indices answers what the first accepted index gives (44_nonce_source.md R224). -/
theorem searchIndexed_of_first (attempt : Nat → Option (Nat × Nat)) (rs : Nat × Nat) (k t : Nat)
    (hk : attempt (t + k) = some rs) (hbefore : ∀ i < k, attempt (t + i) = none) :
    searchIndexed attempt t = some rs := by
  induction k generalizing t with
  | zero => rw [searchIndexed_unfold, show attempt t = some rs by simpa using hk]; rfl
  | succ k ih =>
    have h0 : attempt t = none := by simpa using hbefore 0 (by omega)
    rw [searchIndexed_unfold, h0, Option.none_or]
    refine ih (t + 1) (by rwa [show t + 1 + k = t + (k + 1) by omega]) (fun i hi => ?_)
    rw [show t + 1 + i = t + (i + 1) by omega]
    exact hbefore (i + 1) (by omega)

/-- What the loop over indices answers, some index gives (45_ecdsa.md R246). -/
theorem searchIndexed_some (attempt : Nat → Option (Nat × Nat)) (t : Nat) (rs : Nat × Nat)
    (h : searchIndexed attempt t = some rs) : ∃ u, t ≤ u ∧ attempt u = some rs := by
  refine searchIndexed.partial_correctness attempt (fun t rs => ∃ u, t ≤ u ∧ attempt u = some rs) ?_ t rs h
  intro loop ih t rs h
  split at h
  · rename_i v hv
    exact ⟨t, le_rfl, by rw [hv, h]⟩
  · obtain ⟨u, hu, hus⟩ := ih _ _ h
    exact ⟨u, by omega, hus⟩

end NonceSearch

section Steps

/-- With an empty agenda the engine has the turn. -/
theorem step_engine (s : State) (h : s.env.agenda = []) : step s = engineTurn s := by simp [step, h]

/-- With turns scheduled the first is taken. -/
theorem step_turn (s : State) (t : Turn) (rest : List Turn) (h : s.env.agenda = t :: rest) :
    step s = takeTurn t (s.setAgenda rest) := by simp [step, h]

/-- The engine's turn on an idle core changes nothing. -/
theorem engineTurn_idle (s : State) (h : s.seq = .idle) : engineTurn s = .next s := by simp [engineTurn, h]

/-- The engine's turn on a busy core runs the decoded command. -/
theorem engineTurn_busy (s : State) (i : Instr) (h : s.seq = .busy) (hd : decode s.cmdLatch = .ok i) :
    engineTurn s = exec i s := by simp [engineTurn, h, State.fetchCommand, hd]

/-- The engine's turn on a busy core with an illegal word raises `IllegalCommand`. -/
theorem engineTurn_illegal (s : State) (c : IllegalCause) (h : s.seq = .busy) (hd : decode s.cmdLatch = .error c) :
    engineTurn s = .next (s.raise .illegalCommand) := by simp [engineTurn, h, State.fetchCommand, hd]

end Steps

end Sys2Proof.Machine
end

