-- ==== Sys2Proof/Laws/Commands.lean ====
section
/-! SUPPORT. The shared shapes of the commands, the host's write and the step, each with one lemma that says all it can
do; the selectors, ends and frames the statements speak of. -/

namespace Sys2Proof.Machine

section Selectors

theorem selOf_toNat_w (d : Fin 8) : (selOf d).toNat = d := by revert d; decide
theorem selOf_toNat_slot (i : Fin 4) : (selOf i).toNat = i := by revert i; decide

@[simp] theorem wSel_selOf (d : Fin 8) : wSel (selOf d) = .ok d := (wSel_ok _ _).mpr (selOf_toNat_w d).symm
@[simp] theorem slotSel_selOf (i : Fin 4) : slotSel (selOf i) = .ok i := (slotSel_ok _ _).mpr (selOf_toNat_slot i).symm

end Selectors

section Ends

theorem complete_endsOk (s : State) : EndsOk s.complete := ⟨rfl, rfl, rfl, rfl⟩

theorem raise_endsWith (s : State) (e : CommandError) : EndsWith e s (s.raise e) :=
  ⟨rfl, rfl, rfl, rfl, fun q _ => by cases q <;> simp [Part.same]⟩

/-- A command whose pseudocode reaches its end completes in that state. -/
theorem completesTo_of_ok (i : Instr) (s u : State) (post : State → Prop) (h : exec i s = s.conclude (.ok u))
    (hp : post u.complete) : CompletesTo i s post := ⟨_, h, complete_endsOk u, hp⟩

/-- A command whose pseudocode raises ends so. -/
theorem raises_of_error (i : Instr) (s : State) (e : CommandError) (h : exec i s = s.conclude (.error e)) :
    Raises i s e := ⟨_, h, raise_endsWith s e⟩

end Ends

section Frames

theorem keeps_refl (s : State) (l : List Part) : Keeps s s l := fun q _ => by cases q <;> simp [Part.same]

theorem keeps_complete (s t : State) (l : List Part) (h : Keeps s t l) : Keeps s t.complete l := by
  intro q hq
  have := h q hq
  cases q <;> simpa [Part.same] using this

theorem keeps_mono (s t : State) (l k : List Part) (h : Keeps s t l) (hl : l ⊆ k) : Keeps s t k :=
  fun q hq => h q (fun hm => hq (hl hm))

theorem keeps_writeW (s : State) (d : Fin 8) (v : Word256) : Keeps s (s.writeW d v) [.w] := by
  intro q hq
  cases q <;> simp_all [Part.same]

theorem keeps_writeAcc (s : State) (v : Word512) : Keeps s (s.writeAcc v) [.acc] := by
  intro q hq
  cases q <;> simp_all [Part.same]

theorem keeps_pointResult (s : State) (d : Fin 4) (p : CurvePoint) : Keeps s (s.pointResult d p) [.pt, .flags] := by
  intro q hq
  cases q <;> simp_all [Part.same]

theorem keeps_writeKs (s : State) (i : Fin 4) (k : PrivSlot) : Keeps s (s.writeKs i k) [.ks] := by
  intro q hq
  cases q <;> simp_all [Part.same]

theorem keeps_writeKp (s : State) (i : Fin 4) (k : PubSlot) : Keeps s (s.writeKp i k) [.kp] := by
  intro q hq
  cases q <;> simp_all [Part.same]

theorem keeps_writeBuffer (s : State) (a : Nat) (bs : List Byte) : Keeps s (s.writeBuffer a bs) [.mem] := by
  intro q hq
  cases q <;> simp_all [Part.same]

end Frames

section Shapes

/-- All that a binary modular command can do (40_field_arithmetic.md R121). -/
theorem modBinary_selOf (m : Modulus) (d i j : Fin 8) (s : State) (f : Nat → Nat → Nat) :
    modBinary m (selOf d) (selOf i) (selOf j) s f =
      if s.w[i].toNat < modulus m ∧ s.w[j].toNat < modulus m then
        .next (s.writeW d (BitVec.ofNat 256 (f s.w[i].toNat s.w[j].toNat))).complete
      else .next (s.raise .invalidOperand) := by
  unfold modBinary reducedOperand
  simp only [wSel_selOf, checked_ok_bind, Fin.getElem_fin]
  by_cases ha : s.w[i.val].toNat < modulus m <;> by_cases hb : s.w[j.val].toNat < modulus m <;> simp [ha, hb]

/-- All that a unary modular command can do (40_field_arithmetic.md R121, R126). -/
theorem modUnary_selOf (m : Modulus) (d i : Fin 8) (s : State) (f : Nat → Checked Nat) :
    modUnary m (selOf d) (selOf i) s f =
      if s.w[i].toNat < modulus m then
        s.conclude (f s.w[i].toNat >>= fun r => .ok (s.writeW d (BitVec.ofNat 256 r)))
      else .next (s.raise .invalidOperand) := by
  unfold modUnary reducedOperand
  simp only [wSel_selOf, checked_ok_bind, Fin.getElem_fin]
  by_cases ha : s.w[i.val].toNat < modulus m <;> simp [ha]

/-- The loop over answers passes over rejected ones (44_nonce_source.md R223). -/
theorem searchRandom_append (attempt : Nat → Option (Nat × Nat)) (e : EntropySource) (rejected : List Word256)
    (answers : List EntropyAnswer) (h : ∀ b ∈ rejected, attempt b.toNat = none) :
    searchRandom attempt e (rejected.map .ok ++ answers) = searchRandom attempt e answers := by
  induction rejected with
  | nil => rfl
  | cons b rest ih =>
    simp only [List.map_cons, List.cons_append, searchRandom, h b (by simp)]
    exact ih (fun c hc => h c (by simp [hc]))

/-- All that a `SIGN` can do with a valid slot (45_ecdsa.md R244). -/
theorem execSign_selOf (i : Fin 4) (s : State) :
    execSign (selOf i) s =
      if s.ks[i].valid then
        match nonceStrategy s.nonceMode with
        | .ok mode =>
          s.concludeSign (signSearch Config.detNonce mode s.ks[i].d s.digest s.digestScalar s.env.entropy)
        | .error e => .next (s.raise e)
      else .next (s.raise .keyNotValid) := by
  unfold execSign signWith signOperands privOperand
  simp only [slotSel_selOf, checked_ok_bind, Fin.getElem_fin]
  by_cases hv : s.ks[i.val].valid = true
  · cases nonceStrategy s.nonceMode <;> simp [hv]
  · simp [hv]

end Shapes

section HostAndStep

/-- All that a host write can do (20_memory.md R64, R67, R68). -/
theorem memWrite_cases (s : State) (off : Nat) (v : Word32) :
    (off = 0x018 ∧ ((v.getLsbD 0 = true ∧ s.memWrite off v = s.resetCore) ∨
      (v.getLsbD 0 = false ∧ s.memWrite off v = s))) ∨
    (off ≠ 0x018 ∧ s.seq = .busy ∧ s.memWrite off v = s.dropWrite) ∨
    (off ≠ 0x018 ∧ s.seq = .idle ∧
      ((off = 0x004 ∧ s.memWrite off v = s.accept v) ∨ (off = 0x008 ∧ s.memWrite off v = s.clearStatus v) ∨
       (off = 0x010 ∧ s.memWrite off v = s.writeCfg v) ∨ (off = 0x014 ∧ s.memWrite off v = s.writeInten v) ∨
       (off = 0x400 ∧ s.memWrite off v = s.writePtinf v) ∨
       (off ≠ 0x004 ∧ off ≠ 0x008 ∧ off ≠ 0x010 ∧ off ≠ 0x014 ∧ off ≠ 0x400 ∧
         s.memWrite off v = s.writeLanes off v))) := by
  by_cases h0 : off = 0x018
  · refine .inl ⟨h0, ?_⟩
    cases hv : v.getLsbD 0 <;> simp only [State.memWrite, h0, hv] <;> simp
  · refine .inr ?_
    cases hs : s.seq
    · refine .inr ⟨h0, rfl, ?_⟩
      by_cases h1 : off = 0x004 <;> by_cases h2 : off = 0x008 <;> by_cases h3 : off = 0x010 <;>
        by_cases h4 : off = 0x014 <;> by_cases h5 : off = 0x400 <;>
        simp_all [State.memWrite, State.busy]
    · exact .inl ⟨h0, rfl, by simp [State.memWrite, State.busy, h0, hs]⟩

/-- All that the engine's turn can do (60_exceptions.md R281). -/
theorem engineTurn_cases (s : State) :
    (s.seq = .idle ∧ engineTurn s = .next s) ∨
    (∃ i, s.seq = .busy ∧ decode s.cmdLatch = .ok i ∧ engineTurn s = exec i s) ∨
    (∃ c, s.seq = .busy ∧ decode s.cmdLatch = .error c ∧ engineTurn s = .next (s.raise .illegalCommand)) := by
  cases hs : s.seq
  · exact .inl ⟨rfl, engineTurn_idle s hs⟩
  · cases hd : decode s.cmdLatch with
    | ok i => exact .inr (.inl ⟨i, rfl, rfl, engineTurn_busy s i hs hd⟩)
    | error c => exact .inr (.inr ⟨c, rfl, rfl, engineTurn_illegal s c hs hd⟩)

end HostAndStep

end Sys2Proof.Machine
end

