-- ==== Sys2Proof/Laws/HostPort.lean ====
section
/-! SUPPORT. The laws of the register window: where each region's bytes live, and what a byte write can change. -/

namespace Sys2Proof.Machine

section Map

/-- Byte `i` of a big-endian string, as a byte of the number (20_memory.md R65). -/
theorem beByte_eq {n : Nat} (v : BitVec n) (i : Nat) :
    beByte v i = BitVec.ofNat 8 (v.toNat / 2 ^ (n - 8 - 8 * i)) := by
  apply BitVec.eq_of_toNat_eq
  rw [beByte_toNat, BitVec.toNat_ofNat]

theorem byteHome_acc (k : Fin 64) : byteHome (0x040 + k) = .acc k := by revert k; decide

theorem byteHome_buffer (o : Nat) (h : inBuffer o) : byteHome o = .buffer o := by
  unfold byteHome
  have h' := h
  simp only [inBuffer] at h'
  rw [if_neg (by omega), if_pos h]

theorem byteHome_w (i : Fin 8) (k : Fin 32) : byteHome (0x200 + 0x20 * i + k) = .w i k := by revert i k; decide

theorem byteHome_ptX (j : Fin 4) (k : Fin 32) : byteHome (0x300 + 0x40 * j + k) = .ptX j k := by revert j k; decide

theorem byteHome_ptY (j : Fin 4) (k : Fin 32) : byteHome (0x320 + 0x40 * j + k) = .ptY j k := by revert j k; decide

end Map

section ByteWrites

variable (s : State) (o : Nat) (b : Byte)

/-- All that a byte write can change: a `w` register, `ACC`, the coordinates of a point register, or a buffer byte
(20_memory.md R64; 10_state.md R26). -/
theorem State.writeWindowByte_frame :
    s.writeWindowByte o b = { s with
      w := (s.writeWindowByte o b).w
      acc := (s.writeWindowByte o b).acc
      pt := (s.writeWindowByte o b).pt
      mem := (s.writeWindowByte o b).mem } ∧
    ∀ j : Fin 4, (s.writeWindowByte o b).pt[j].inf = s.pt[j].inf := by
  unfold State.writeWindowByte
  cases byteHome o <;> refine ⟨rfl, fun j => ?_⟩ <;>
    simp [Vector.getElem_set] <;> split <;> simp_all

@[simp] theorem State.writeWindowByte_inf (j : Fin 4) : (s.writeWindowByte o b).pt[j].inf = s.pt[j].inf :=
  (s.writeWindowByte_frame o b).2 j
@[simp] theorem State.writeWindowByte_ks : (s.writeWindowByte o b).ks = s.ks := by
  rw [(s.writeWindowByte_frame o b).1]
@[simp] theorem State.writeWindowByte_kp : (s.writeWindowByte o b).kp = s.kp := by
  rw [(s.writeWindowByte_frame o b).1]
@[simp] theorem State.writeWindowByte_seq : (s.writeWindowByte o b).seq = s.seq := by
  rw [(s.writeWindowByte_frame o b).1]
@[simp] theorem State.writeWindowByte_cmdLatch : (s.writeWindowByte o b).cmdLatch = s.cmdLatch := by
  rw [(s.writeWindowByte_frame o b).1]
@[simp] theorem State.writeWindowByte_status : (s.writeWindowByte o b).status = s.status := by
  rw [(s.writeWindowByte_frame o b).1]
@[simp] theorem State.writeWindowByte_flags : (s.writeWindowByte o b).flags = s.flags := by
  rw [(s.writeWindowByte_frame o b).1]
@[simp] theorem State.writeWindowByte_nonceMode : (s.writeWindowByte o b).nonceMode = s.nonceMode := by
  rw [(s.writeWindowByte_frame o b).1]
@[simp] theorem State.writeWindowByte_inten : (s.writeWindowByte o b).inten = s.inten := by
  rw [(s.writeWindowByte_frame o b).1]
@[simp] theorem State.writeWindowByte_env : (s.writeWindowByte o b).env = s.env := by
  rw [(s.writeWindowByte_frame o b).1]

end ByteWrites

end Sys2Proof.Machine
end

