-- ==== Sys2Proof/Laws/Memory.lean ====
section
/-! SUPPORT. The laws of the buffer memory: read after write, and the canonical form is kept by every operation. -/

namespace Sys2Proof.Machine

/-- The offsets of a memory strictly rise. -/
abbrev Memory.rising (m : Memory) : Prop := m.Pairwise (fun c d => c.1 < d.1)

/-- An offset below every listed one reads as unwritten. -/
theorem Memory.read_of_lt (m : Memory) (a : Nat) (h : ∀ c ∈ m, a < c.1) : Memory.read m a = unwrittenByte := by
  induction m with
  | nil => rfl
  | cons c rest ih =>
    obtain ⟨k, v⟩ := c
    have hk : a < k := h (k, v) (by simp)
    have hne : k ≠ a := by omega
    simp only [Memory.read, if_neg hne]
    exact ih (fun d hd => h d (by simp [hd]))

/-- Every entry after a write was there before, or is the one written. -/
theorem Memory.mem_write (m : Memory) (a : Nat) (b : Byte) (c : Host.Cell) (h : c ∈ Memory.write m a b) :
    c ∈ m ∨ (c = (a, b) ∧ b ≠ unwrittenByte) := by
  induction m with
  | nil =>
    simp only [Memory.write] at h
    split at h
    · cases h
    · rename_i hb
      exact .inr ⟨by simpa using h, hb⟩
  | cons d rest ih =>
    obtain ⟨k, v⟩ := d
    simp only [Memory.write] at h
    split at h
    · rcases List.mem_cons.mp h with rfl | h
      · exact .inl (by simp)
      · rcases ih h with h | h
        · exact .inl (by simp [h])
        · exact .inr h
    · split at h
      · split at h
        · exact .inl (by simp [h])
        · exact .inl h
      · rename_i hb
        split at h
        · rcases List.mem_cons.mp h with h | h
          · exact .inr ⟨h, hb⟩
          · exact .inl (by simp [h])
        · rcases List.mem_cons.mp h with h | h
          · exact .inr ⟨h, hb⟩
          · exact .inl h

/-- A write keeps the offsets rising. -/
theorem Memory.rising_write (m : Memory) (a : Nat) (b : Byte) (h : m.rising) : (Memory.write m a b).rising := by
  induction m with
  | nil => simp only [Memory.write]; split <;> simp [Memory.rising]
  | cons d rest ih =>
    obtain ⟨k, v⟩ := d
    obtain ⟨hk, hrest⟩ := List.pairwise_cons.mp h
    simp only [Memory.write]
    split
    · rename_i hlt
      refine List.pairwise_cons.mpr ⟨fun c hc => ?_, ih hrest⟩
      rcases Memory.mem_write rest a b c hc with hc | ⟨rfl, -⟩
      · exact hk c hc
      · exact hlt
    · rename_i hge
      split
      · split
        · exact hrest
        · exact h
      · split
        · rename_i he
          subst he
          exact List.pairwise_cons.mpr ⟨hk, hrest⟩
        · rename_i hne
          refine List.pairwise_cons.mpr ⟨fun c hc => ?_, h⟩
          rcases List.mem_cons.mp hc with rfl | hc
          · change a < k; omega
          · have := hk c hc; simp only at this ⊢; omega

/-- A write to a buffer offset keeps the canonical form. -/
theorem Memory.wf_write (m : Memory) (a : Nat) (b : Byte) (ha : inBuffer a) (h : Memory.wf m) :
    Memory.wf (Memory.write m a b) := by
  refine ⟨Memory.rising_write m a b h.1, fun c hc => ?_⟩
  rcases Memory.mem_write m a b c hc with hc | ⟨rfl, hb⟩
  · exact h.2 c hc
  · exact ⟨ha, hb⟩

/-- A byte just written is read back. -/
theorem Memory.read_write_same (m : Memory) (a : Nat) (b : Byte) (h : m.rising) :
    Memory.read (Memory.write m a b) a = b := by
  induction m with
  | nil => simp only [Memory.write]; split <;> simp_all [Memory.read]
  | cons d rest ih =>
    obtain ⟨k, v⟩ := d
    obtain ⟨hk, hrest⟩ := List.pairwise_cons.mp h
    simp only [Memory.write]
    split
    · rename_i hlt
      have hne : k ≠ a := by omega
      simp only [Memory.read, if_neg hne]
      exact ih hrest
    · rename_i hge
      split
      · rename_i hb
        split
        · rename_i he
          subst he
          rw [Memory.read_of_lt rest k hk, hb]
        · rename_i hne
          rw [hb]
          refine Memory.read_of_lt _ _ (fun c hc => ?_)
          rcases List.mem_cons.mp hc with rfl | hc
          · change a < k; omega
          · have := hk c hc; simp only at this; omega
      · split <;> simp [Memory.read]

/-- A write leaves every other byte. -/
theorem Memory.read_write_ne (m : Memory) (a c : Nat) (b : Byte) (hne : c ≠ a) (h : m.rising) :
    Memory.read (Memory.write m a b) c = Memory.read m c := by
  induction m with
  | nil =>
    simp only [Memory.write]
    split
    · rfl
    · simp [Memory.read, Ne.symm hne]
  | cons d rest ih =>
    obtain ⟨k, v⟩ := d
    obtain ⟨hk, hrest⟩ := List.pairwise_cons.mp h
    simp only [Memory.write]
    split
    · simp only [Memory.read, ih hrest]
    · split
      · split
        · rename_i he
          subst he
          simp [Memory.read, Ne.symm hne]
        · rfl
      · split
        · rename_i he
          subst he
          simp [Memory.read, Ne.symm hne]
        · simp [Memory.read, Ne.symm hne]

/-- A string write inside the buffers keeps the canonical form. -/
theorem Memory.wf_writeBytes (m : Memory) (a : Nat) (bs : List Byte) (h : Memory.wf m)
    (hin : ∀ i < bs.length, inBuffer (a + i)) : Memory.wf (Memory.writeBytes m a bs) := by
  induction bs generalizing m a with
  | nil => exact h
  | cons b bs ih =>
    refine ih _ _ (Memory.wf_write m a b (by simpa using hin 0 (by simp)) h) (fun i hi => ?_)
    have := hin (i + 1) (by simp; omega)
    rwa [show a + 1 + i = a + (i + 1) by omega]

/-- A string write keeps the offsets rising. -/
theorem Memory.rising_writeBytes (m : Memory) (a : Nat) (bs : List Byte) (h : m.rising) :
    (Memory.writeBytes m a bs).rising := by
  induction bs generalizing m a with
  | nil => exact h
  | cons b bs ih => exact ih _ _ (Memory.rising_write m a b h)

/-- A string write leaves every byte outside the string. -/
theorem Memory.read_writeBytes_outside (m : Memory) (a c : Nat) (bs : List Byte) (h : m.rising)
    (hc : c < a ∨ a + bs.length ≤ c) : Memory.read (Memory.writeBytes m a bs) c = Memory.read m c := by
  induction bs generalizing m a with
  | nil => rfl
  | cons b bs ih =>
    have hlen : (b :: bs).length = bs.length + 1 := rfl
    rw [Memory.writeBytes, ih _ _ (Memory.rising_write m a b h) (by omega),
      Memory.read_write_ne m a c b (by omega) h]

/-- A string write stores its bytes in order. -/
theorem Memory.read_writeBytes_inside (m : Memory) (a i : Nat) (bs : List Byte) (h : m.rising)
    (hi : i < bs.length) : Memory.read (Memory.writeBytes m a bs) (a + i) = bs[i] := by
  induction bs generalizing m a i with
  | nil => exact absurd hi (by simp)
  | cons b bs ih =>
    cases i with
    | zero =>
      have h0 := Memory.read_writeBytes_outside _ (a + 1) a bs (Memory.rising_write m a b h) (by omega)
      exact h0.trans (Memory.read_write_same m a b h)
    | succ i =>
      have hi' : i < bs.length := by simpa using hi
      have := ih (Memory.write m a b) (a + 1) i (Memory.rising_write m a b h) hi'
      rw [Memory.writeBytes, show a + (i + 1) = a + 1 + i by omega, this]
      rfl

/-- A string of bytes read back where a string was written is that string. -/
theorem Memory.readBytes_writeBytes (m : Memory) (a : Nat) (bs : List Byte) (h : m.rising) :
    Memory.readBytes (Memory.writeBytes m a bs) a bs.length = bs := by
  apply List.ext_getElem
  · simp [Memory.readBytes]
  · intro i h1 h2
    simp [Memory.readBytes, Memory.read_writeBytes_inside m a i bs h h2]

end Sys2Proof.Machine
end

