-- ==== Sys2Proof/Laws/PerInstr.lean ====
section
/-! SUPPORT. Statements made per instruction, one lemma per constructor. -/

namespace Sys2Proof

/-- The opcode of a command in the table of 30_encoding.md R95. -/
def opcodeOf : Instr → BitVec 8
  | .nop => 0x00#8
  | .fadd .. => 0x10#8
  | .fsub .. => 0x11#8
  | .fmul .. => 0x12#8
  | .finv .. => 0x13#8
  | .feq .. => 0x14#8
  | .mulw .. => 0x18#8
  | .bred .. => 0x19#8
  | .mmul .. => 0x1A#8
  | .mtom .. => 0x1B#8
  | .mfrom .. => 0x1C#8
  | .padd .. => 0x20#8
  | .pdbl .. => 0x21#8
  | .pmul .. => 0x22#8
  | .pchk .. => 0x23#8
  | .pldg .. => 0x24#8
  | .imppriv .. => 0x30#8
  | .imppub .. => 0x31#8
  | .exppriv .. => 0x32#8
  | .exppub .. => 0x33#8
  | .derive .. => 0x34#8
  | .dispose .. => 0x35#8
  | .sign .. => 0x40#8
  | .verify .. => 0x41#8

/-- The low byte of an assembled word is its opcode (30_encoding.md R90). -/
theorem assemble_opcode (op : BitVec 8) (m : Bool) (rd ra rb : Sel) (len : Byte) :
    (assemble op m rd ra rb len).extractLsb' 0 8 = op := by
  simp only [assemble]
  exact BitVec.extractLsb'_append_eq_right

/-- The reserved bits 11:9 of an assembled word are zero (30_encoding.md R90). -/
theorem assemble_reserved (op : BitVec 8) (m : Bool) (rd ra rb : Sel) (len : Byte) :
    (assemble op m rd ra rb len).extractLsb' 9 3 = 0#3 := by
  have upper : ∀ (u : BitVec 20) (b : BitVec 1), (u ++ 0#3 ++ b ++ op).extractLsb' 9 3 = 0#3 := by
    intro u b
    ext i hi
    have h1 : ¬ 9 + i < 8 := by omega
    have h2 : ¬ 9 + i - 8 < 1 := by omega
    have h3 : 9 + i - 8 - 1 < 3 := by omega
    rw [BitVec.getElem_extractLsb', BitVec.getLsbD_append, BitVec.getLsbD_append, BitVec.getLsbD_append]
    simp [h1, h2, h3]
  exact upper (len ++ rb ++ ra ++ rd) (BitVec.ofBool m)

namespace Laws

/-- Every command's word carries its opcode in bits 7:0 and zeros in bits 11:9 (30_encoding.md R90, R95). -/
def EncodedOpcode.Statement (i : Instr) : Prop :=
  (encode i).extractLsb' 0 8 = opcodeOf i ∧ (encode i).extractLsb' 9 3 = 0#3

theorem EncodedOpcode.nop : EncodedOpcode.Statement .nop :=
  ⟨assemble_opcode .., assemble_reserved ..⟩

theorem EncodedOpcode.fadd (m : Modulus) (rd ra rb : Sel) : EncodedOpcode.Statement (.fadd m rd ra rb) :=
  ⟨assemble_opcode .., assemble_reserved ..⟩

theorem EncodedOpcode.fsub (m : Modulus) (rd ra rb : Sel) : EncodedOpcode.Statement (.fsub m rd ra rb) :=
  ⟨assemble_opcode .., assemble_reserved ..⟩

theorem EncodedOpcode.fmul (m : Modulus) (rd ra rb : Sel) : EncodedOpcode.Statement (.fmul m rd ra rb) :=
  ⟨assemble_opcode .., assemble_reserved ..⟩

theorem EncodedOpcode.finv (m : Modulus) (rd ra : Sel) : EncodedOpcode.Statement (.finv m rd ra) :=
  ⟨assemble_opcode .., assemble_reserved ..⟩

theorem EncodedOpcode.feq (m : Modulus) (ra rb : Sel) : EncodedOpcode.Statement (.feq m ra rb) :=
  ⟨assemble_opcode .., assemble_reserved ..⟩

theorem EncodedOpcode.mulw (ra rb : Sel) : EncodedOpcode.Statement (.mulw ra rb) :=
  ⟨assemble_opcode .., assemble_reserved ..⟩

theorem EncodedOpcode.bred (m : Modulus) (rd : Sel) : EncodedOpcode.Statement (.bred m rd) :=
  ⟨assemble_opcode .., assemble_reserved ..⟩

theorem EncodedOpcode.mmul (m : Modulus) (rd ra rb : Sel) : EncodedOpcode.Statement (.mmul m rd ra rb) :=
  ⟨assemble_opcode .., assemble_reserved ..⟩

theorem EncodedOpcode.mtom (m : Modulus) (rd ra : Sel) : EncodedOpcode.Statement (.mtom m rd ra) :=
  ⟨assemble_opcode .., assemble_reserved ..⟩

theorem EncodedOpcode.mfrom (m : Modulus) (rd ra : Sel) : EncodedOpcode.Statement (.mfrom m rd ra) :=
  ⟨assemble_opcode .., assemble_reserved ..⟩

theorem EncodedOpcode.padd (rd ra rb : Sel) : EncodedOpcode.Statement (.padd rd ra rb) :=
  ⟨assemble_opcode .., assemble_reserved ..⟩

theorem EncodedOpcode.pdbl (rd ra : Sel) : EncodedOpcode.Statement (.pdbl rd ra) :=
  ⟨assemble_opcode .., assemble_reserved ..⟩

theorem EncodedOpcode.pmul (rd ra rb : Sel) : EncodedOpcode.Statement (.pmul rd ra rb) :=
  ⟨assemble_opcode .., assemble_reserved ..⟩

theorem EncodedOpcode.pchk (ra : Sel) : EncodedOpcode.Statement (.pchk ra) :=
  ⟨assemble_opcode .., assemble_reserved ..⟩

theorem EncodedOpcode.pldg (rd : Sel) : EncodedOpcode.Statement (.pldg rd) :=
  ⟨assemble_opcode .., assemble_reserved ..⟩

theorem EncodedOpcode.imppriv (rd : Sel) (len : Byte) : EncodedOpcode.Statement (.imppriv rd len) :=
  ⟨assemble_opcode .., assemble_reserved ..⟩

theorem EncodedOpcode.imppub (rd : Sel) (len : Byte) : EncodedOpcode.Statement (.imppub rd len) :=
  ⟨assemble_opcode .., assemble_reserved ..⟩

theorem EncodedOpcode.exppriv (ra : Sel) : EncodedOpcode.Statement (.exppriv ra) :=
  ⟨assemble_opcode .., assemble_reserved ..⟩

theorem EncodedOpcode.exppub (ra : Sel) : EncodedOpcode.Statement (.exppub ra) :=
  ⟨assemble_opcode .., assemble_reserved ..⟩

theorem EncodedOpcode.derive (rd ra : Sel) : EncodedOpcode.Statement (.derive rd ra) :=
  ⟨assemble_opcode .., assemble_reserved ..⟩

theorem EncodedOpcode.dispose (rd : Sel) : EncodedOpcode.Statement (.dispose rd) :=
  ⟨assemble_opcode .., assemble_reserved ..⟩

theorem EncodedOpcode.sign (ra : Sel) : EncodedOpcode.Statement (.sign ra) :=
  ⟨assemble_opcode .., assemble_reserved ..⟩

theorem EncodedOpcode.verify (ra : Sel) (len : Byte) : EncodedOpcode.Statement (.verify ra len) :=
  ⟨assemble_opcode .., assemble_reserved ..⟩

end Laws

end Sys2Proof
end

