-- ==== Sys2Proof/Machine/Projective.lean ====
section
/-! DEFINITION. The Jacobian formulas an implementation may use inside the point unit (42_point_arithmetic.md R179,
informative). No projective value is architecturally visible: no meaning calls this file. -/

namespace Sys2Proof.Machine

/-- Jacobian coordinates `(X : Y : Z)`; `Z = 0` stands for `INF` (42_point_arithmetic.md R179). -/
structure Jacobian where
  x : Nat
  y : Nat
  z : Nat
  deriving DecidableEq, Repr

/-- An affine point with `Z = 1`, or `INF` as `(1, 1, 0)`. -/
def Jacobian.ofPoint : CurvePoint → Jacobian
  | .inf => ⟨1, 1, 0⟩
  | .affine x y => ⟨x, y, 1⟩

/-- The affine point `(X * Z^-2, Y * Z^-3)`, or `INF` (42_point_arithmetic.md R179). -/
def Jacobian.toPoint (j : Jacobian) : CurvePoint :=
  if j.z % Config.p = 0 then .inf
  else
    let zi := inv (j.z % Config.p) Config.p
    .affine (j.x * zi * zi % Config.p) (j.y * zi * zi * zi % Config.p)

/-- A value reduced modulo `p`. -/
def fieldOf (v : Int) : Nat := residue v Config.p

/-- `jdbl`, using `a = -3` (42_point_arithmetic.md R179). -/
def jdbl (j : Jacobian) : Jacobian :=
  if j.z = 0 ∨ j.y = 0 then ⟨1, 1, 0⟩
  else
    let delta := fieldOf (j.z * j.z)
    let gamma := fieldOf (j.y * j.y)
    let beta := fieldOf (j.x * gamma)
    let alpha := fieldOf (3 * ((j.x : Int) - delta) * (j.x + delta))
    let x3 := fieldOf ((alpha : Int) * alpha - 8 * beta)
    let z3 := fieldOf (((j.y : Int) + j.z) * (j.y + j.z) - gamma - delta)
    ⟨x3, fieldOf ((alpha : Int) * (4 * beta - x3) - 8 * gamma * gamma), z3⟩

/-- `jadd` (42_point_arithmetic.md R179). -/
def jadd (j k : Jacobian) : Jacobian :=
  if j.z = 0 then k
  else if k.z = 0 then j
  else
    let u1 := fieldOf (j.x * (k.z * k.z))
    let u2 := fieldOf (k.x * (j.z * j.z))
    let s1 := fieldOf (j.y * (k.z * k.z * k.z))
    let s2 := fieldOf (k.y * (j.z * j.z * j.z))
    let h := fieldOf ((u2 : Int) - u1)
    let r := fieldOf ((s2 : Int) - s1)
    if h = 0 ∧ r = 0 then jdbl j
    else if h = 0 then ⟨1, 1, 0⟩
    else
      let x3 := fieldOf ((r : Int) * r - h * h * h - 2 * u1 * (h * h))
      ⟨x3, fieldOf ((r : Int) * ((u1 : Int) * (h * h) - x3) - s1 * (h * h * h)), fieldOf ((j.z : Int) * k.z * h)⟩

end Sys2Proof.Machine
end

