-- ==== Sys2Proof/Machine/Rfc6979.lean ====
section
/-! DEFINITION. The concrete `DetNonce` of 44_nonce_source.md R227: RFC 6979 section 3.2 with HMAC-SHA-256
(informative; PRESUMED, 93_implementation_defined.md G8). The machine keeps `DetNonce` abstract
(`Config.detNonce`): no meaning calls this file (notes/assumptions/4). -/

namespace Sys2Proof.Machine

/-- The round constants of SHA-256. -/
def shaRoundConstants : List Word32 :=
  [ 0x428A2F98#32, 0x71374491#32, 0xB5C0FBCF#32, 0xE9B5DBA5#32, 0x3956C25B#32, 0x59F111F1#32, 0x923F82A4#32, 0xAB1C5ED5#32,
    0xD807AA98#32, 0x12835B01#32, 0x243185BE#32, 0x550C7DC3#32, 0x72BE5D74#32, 0x80DEB1FE#32, 0x9BDC06A7#32, 0xC19BF174#32,
    0xE49B69C1#32, 0xEFBE4786#32, 0x0FC19DC6#32, 0x240CA1CC#32, 0x2DE92C6F#32, 0x4A7484AA#32, 0x5CB0A9DC#32, 0x76F988DA#32,
    0x983E5152#32, 0xA831C66D#32, 0xB00327C8#32, 0xBF597FC7#32, 0xC6E00BF3#32, 0xD5A79147#32, 0x06CA6351#32, 0x14292967#32,
    0x27B70A85#32, 0x2E1B2138#32, 0x4D2C6DFC#32, 0x53380D13#32, 0x650A7354#32, 0x766A0ABB#32, 0x81C2C92E#32, 0x92722C85#32,
    0xA2BFE8A1#32, 0xA81A664B#32, 0xC24B8B70#32, 0xC76C51A3#32, 0xD192E819#32, 0xD6990624#32, 0xF40E3585#32, 0x106AA070#32,
    0x19A4C116#32, 0x1E376C08#32, 0x2748774C#32, 0x34B0BCB5#32, 0x391C0CB3#32, 0x4ED8AA4A#32, 0x5B9CCA4F#32, 0x682E6FF3#32,
    0x748F82EE#32, 0x78A5636F#32, 0x84C87814#32, 0x8CC70208#32, 0x90BEFFFA#32, 0xA4506CEB#32, 0xBEF9A3F7#32, 0xC67178F2#32 ]

/-- The eight working words of SHA-256. -/
structure ShaWords where
  a : Word32
  b : Word32
  c : Word32
  d : Word32
  e : Word32
  f : Word32
  g : Word32
  h : Word32
  deriving DecidableEq, Repr

/-- The initial hash value. -/
def shaInit : ShaWords :=
  ⟨0x6A09E667#32, 0xBB67AE85#32, 0x3C6EF372#32, 0xA54FF53A#32, 0x510E527F#32, 0x9B05688C#32, 0x1F83D9AB#32, 0x5BE0CD19#32⟩

/-- Word-wise addition of two hash values modulo `2^32`. -/
def ShaWords.add (s t : ShaWords) : ShaWords :=
  ⟨s.a + t.a, s.b + t.b, s.c + t.c, s.d + t.d, s.e + t.e, s.f + t.f, s.g + t.g, s.h + t.h⟩

/-- One round, with the round constant and the schedule word added up in `kw`. -/
def ShaWords.round (s : ShaWords) (kw : Word32) : ShaWords :=
  let ch := (s.e &&& s.f) ^^^ (~~~s.e &&& s.g)
  let maj := (s.a &&& s.b) ^^^ (s.a &&& s.c) ^^^ (s.b &&& s.c)
  let big1 := s.e.rotateRight 6 ^^^ s.e.rotateRight 11 ^^^ s.e.rotateRight 25
  let big0 := s.a.rotateRight 2 ^^^ s.a.rotateRight 13 ^^^ s.a.rotateRight 22
  let t1 := s.h + big1 + ch + kw
  ⟨t1 + (big0 + maj), s.a, s.b, s.c, s.d + t1, s.e, s.f, s.g⟩

/-- The next word of the message schedule, from the sixteen before it. -/
def shaNextWord (win : List Word32) : Word32 :=
  let x := win.getD 1 0
  let y := win.getD 14 0
  let small0 := x.rotateRight 7 ^^^ x.rotateRight 18 ^^^ x >>> 3
  let small1 := y.rotateRight 17 ^^^ y.rotateRight 19 ^^^ y >>> 10
  win.getD 0 0 + small0 + win.getD 9 0 + small1

/-- The 64 rounds over a window of sixteen schedule words. -/
def shaRounds : List Word32 → List Word32 → ShaWords → ShaWords
  | [], _, s => s
  | k :: ks, win, s => shaRounds ks (win.drop 1 ++ [shaNextWord win]) (s.round (k + win.getD 0 0))

/-- The big-endian 32-bit words of a byte string of a multiple of four bytes. -/
def wordsOfBytes : List Byte → List Word32
  | b0 :: b1 :: b2 :: b3 :: rest => (b0 ++ b1 ++ b2 ++ b3) :: wordsOfBytes rest
  | _ => []

/-- The compression of `blocks` blocks of sixteen words. -/
def shaBlocks : Nat → List Word32 → ShaWords → ShaWords
  | 0, _, s => s
  | blocks + 1, ws, s =>
    shaBlocks blocks (ws.drop 16) (s.add (shaRounds shaRoundConstants (ws.take 16) s))

/-- The padded message: `0x80`, zeros, and the bit length in 64 bits. -/
def shaPad (msg : List Byte) : List Byte :=
  let bits : BitVec 64 := BitVec.ofNat 64 (8 * msg.length)
  msg ++ 0x80#8 :: List.replicate ((119 - msg.length % 64) % 64) 0#8 ++ (List.range 8).map (beByte bits)

/-- The four bytes of a word. -/
def bytesOfWord (v : Word32) : List Byte := (List.range 4).map (beByte v)

/-- SHA-256 of a byte string. -/
def sha256 (msg : List Byte) : List Byte :=
  let padded := shaPad msg
  let s := shaBlocks (padded.length / 64) (wordsOfBytes padded) shaInit
  bytesOfWord s.a ++ bytesOfWord s.b ++ bytesOfWord s.c ++ bytesOfWord s.d ++
    bytesOfWord s.e ++ bytesOfWord s.f ++ bytesOfWord s.g ++ bytesOfWord s.h

/-- HMAC-SHA-256 with a key of 32 bytes (44_nonce_source.md R227). -/
def hmac (key msg : List Byte) : List Byte :=
  let k := key ++ List.replicate 32 0#8
  sha256 (k.map (· ^^^ 0x5C#8) ++ sha256 (k.map (· ^^^ 0x36#8) ++ msg))

/-- The pair `(K, V)` after the seeding lines of 44_nonce_source.md R227, from `BE32(d)` and the reduced digest's
string. -/
def rfc6979Seed (x h : List Byte) : List Byte × List Byte :=
  let v0 := List.replicate 32 0x01#8
  let k1 := hmac (List.replicate 32 0x00#8) (v0 ++ 0x00#8 :: (x ++ h))
  let v1 := hmac k1 v0
  let k2 := hmac k1 (v1 ++ 0x01#8 :: (x ++ h))
  (k2, hmac k2 v1)

/-- The candidate of index `t`, from the pair `(K, V)` (44_nonce_source.md R227). -/
def rfc6979Candidate : Nat → List Byte × List Byte → Nat
  | 0, (k, v) => beNat (hmac k v)
  | t + 1, (k, v) =>
    let v1 := hmac k v
    let k1 := hmac k (v1 ++ [0x00#8])
    rfc6979Candidate t (k1, hmac k1 v1)

/-- `DetNonce(d, digest, t)` of RFC 6979 (44_nonce_source.md R227). -/
def rfc6979Nonce (n : Nat) (d digest : Word256) (t : Nat) : Word256 :=
  BitVec.ofNat 256 (rfc6979Candidate t (rfc6979Seed (be32 d) (be32 (BitVec.ofNat 256 (digest.toNat % n)))))

end Sys2Proof.Machine
end

