-- ==== Sys2Proof/Tests/Slice0.lean ====
section
/-! SUPPORT. Tests: the WellFormed smoke test, words written out from the spec's encodings, one-step vectors of
95_test_vectors.md, and for every obligation with hypotheses a state that meets them. -/

namespace Sys2Proof.Tests

open Sys2Proof Sys2Proof.Machine

-- One theorem at a time: each kernel evaluation waits for the one before, and a waiting thread holds its stack.
set_option Elab.async false

section Helpers

/-- The state a step answers, if it answers one. -/
def nextOf : Result → Option State
  | .next t => some t
  | .fault _ => none
  | .refused _ => none

/-- The state a step answers, or a given one. -/
def nextOr (s : State) (r : Result) : State := (nextOf r).getD s

theorem eq_nextOr (s : State) (r : Result) (h : (nextOf r).isSome = true) : r = .next (nextOr s r) := by
  cases r <;> simp_all [nextOf, nextOr]

/-- The host's write of a command word, then the engine's step. -/
def issue (s : State) (c : Word32) : State := nextOr s (step (s.memWrite 0x004 c))

/-- `STATUS`, and the value of one register. -/
def statusAndW (i : Fin 8) (s : State) : Word32 × Word256 := (s.statusWord, s.w[i])

/-- From reset, with three `w` registers. -/
def stW (a b c : Nat) : State :=
  { State.reset with w := ((State.reset.w.set 0 (BitVec.ofNat 256 a)).set 1 (BitVec.ofNat 256 b)).set 2 (BitVec.ofNat 256 c) }

/-- From reset, with two point registers. -/
def stPt (p q : PointReg) : State := { State.reset with pt := (State.reset.pt.set 0 p).set 1 q }

/-- From reset, with a byte string in `KEYBUF`. -/
def stKey (bs : List Byte) : State := State.reset.writeBuffer keyBase bs

/-- From reset, with a private key in slot 0. -/
def stPriv (d : Nat) : State := State.reset.writeKs 0 { d := BitVec.ofNat 256 d, valid := true }

/-- From reset, with a public key in slot 0. -/
def stPub (x y : Nat) : State :=
  State.reset.writeKp 0 { x := BitVec.ofNat 256 x, y := BitVec.ofNat 256 y, valid := true }

/-- The 65 bytes of a public key under a tag. -/
def pubBytes (tag : Byte) (x y : Nat) : List Byte := tag :: (be32 (BitVec.ofNat 256 x) ++ be32 (BitVec.ofNat 256 y))

/-- A finite point register. -/
def finite (x y : Nat) : PointReg := { x := BitVec.ofNat 256 x, y := BitVec.ofNat 256 y, inf := false }

/-- A key in slot 0, a nonce mode, a digest and entropy answers. -/
def stSign (d : Nat) (mode : BitVec 2) (digest : Nat) (answers : List EntropyAnswer) (tail : EntropyTail) : State :=
  { (stPriv d).writeBuffer digBase (be32 (BitVec.ofNat 256 digest)) with
    nonceMode := mode
    seq := .busy
    env := { Environment.reset with
      entropy := { answers := answers, whenEmpty := tail, outstanding := false, abandoned := 0 } } }

/-- A public key in slot 0, a digest and a signature. -/
def stVerify (x y digest r s : Nat) : State :=
  ((stPub x y).writeBuffer digBase (be32 (BitVec.ofNat 256 digest))).writeBuffer sigBase
    (be32 (BitVec.ofNat 256 r) ++ be32 (BitVec.ofNat 256 s))

/-- The private key, digest and public key of 95_test_vectors.md. -/
def d11 : Nat := 0x1111111111111111111111111111111111111111111111111111111111111111
def d22 : Nat := 0x2222222222222222222222222222222222222222222222222222222222222222
def dig7 : Nat := 0x042BA8354DB263A6A5A9F74D6B7CEB4C962A3D8FD58A41969E521EB022245415
def q11x : Nat := 0x0217E617F0B6443928278F96999E69A23A4F2C152BDF6D6CDF66E5B80282D4ED
def q11y : Nat := 0x194A7DEBCB97712D2DDA3CA85AA8765A56F45FC758599652F2897C65306E5794

/-- `2*G` (95_test_vectors.md V-POINT). -/
def g2 : PointReg := finite 0x7CF27B188D034F7E8A52380304B51AC3C08969E277F21B35A60B48FC47669978
  0x07775510DB8ED040293D9AC69F7430DBBA7DADE63CE982299E04B79D227873D1

/-- `3*G` (95_test_vectors.md V-POINT). -/
def g3 : PointReg := finite 0x5ECBE4D1A6330A44C8F7EF951D4BF165E6C6B721EFADA985FB41661BC6E7FD6C
  0x8734640C4998FF7E374B06CE1A64A2ECD82AB036384FB83D9A79B127A27D5032

/-- The point register that holds `G`. -/
def g1 : PointReg := finite Config.gx Config.gy

end Helpers

section WellFormed

/-- A `w` selector of 8 and a slot selector of 4 are refused, in every operand position of every form (R92). -/
theorem test_wellFormed_refuses_w :
    ([.fadd .p 8 0 0, .fadd .p 0 8 0, .fadd .p 0 0 8, .fsub .n 8 0 0, .fsub .n 0 8 0, .fsub .n 0 0 8, .fmul .p 8 0 0,
      .fmul .p 0 8 0, .fmul .p 0 0 8, .finv .p 8 0, .finv .p 0 8, .feq .p 8 0, .feq .p 0 8, .mulw 8 0, .mulw 0 8,
      .bred .p 8, .mmul .p 8 0 0, .mmul .p 0 8 0, .mmul .p 0 0 8, .mtom .p 8 0, .mtom .p 0 8, .mfrom .p 8 0,
      .mfrom .p 0 8, .pmul 0 0 8] : List Instr).all (fun i => !i.wellFormed) = true := by decide

theorem test_wellFormed_refuses_slot :
    ([.padd 4 0 0, .padd 0 4 0, .padd 0 0 4, .pdbl 4 0, .pdbl 0 4, .pmul 4 0 0, .pmul 0 4 0, .pchk 4, .pldg 4,
      .imppriv 4 32, .imppub 4 65, .exppriv 4, .exppub 4, .derive 4 0, .derive 0 4, .dispose 4, .sign 4,
      .verify 4 64] : List Instr).all (fun i => !i.wellFormed) = true := by decide

/-- The last selector of each range is accepted, and `len` at every value (R92, R93). -/
theorem test_wellFormed_accepts :
    ([.nop, .fadd .n 7 7 7, .pmul 3 3 7, .padd 3 3 3, .imppriv 3 255, .verify 3 0, .derive 3 3] : List Instr).all
      (fun i => i.wellFormed) = true := by decide

end WellFormed

section Decoding

/-! The words of 95_test_vectors.md V-ENC, one per command. -/

theorem test_decode_nop : decode 0x00000000#32 = .ok (.nop) := by decide +kernel
theorem test_decode_fadd : decode 0x00213010#32 = .ok (.fadd .p 3 1 2) := by decide +kernel
theorem test_decode_fadd_n : decode 0x00777110#32 = .ok (.fadd .n 7 7 7) := by decide +kernel
theorem test_decode_fsub : decode 0x00210111#32 = .ok (.fsub .n 0 1 2) := by decide +kernel
theorem test_decode_fmul : decode 0x00213112#32 = .ok (.fmul .n 3 1 2) := by decide +kernel
theorem test_decode_finv : decode 0x00045113#32 = .ok (.finv .n 5 4) := by decide +kernel
theorem test_decode_feq : decode 0x00760014#32 = .ok (.feq .p 6 7) := by decide +kernel
theorem test_decode_mulw : decode 0x00210018#32 = .ok (.mulw 1 2) := by decide +kernel
theorem test_decode_bred : decode 0x00003119#32 = .ok (.bred .n 3) := by decide +kernel
theorem test_decode_mmul : decode 0x0010201A#32 = .ok (.mmul .p 2 0 1) := by decide +kernel
theorem test_decode_mtom : decode 0x0000111B#32 = .ok (.mtom .n 1 0) := by decide +kernel
theorem test_decode_mfrom : decode 0x0000101C#32 = .ok (.mfrom .p 1 0) := by decide +kernel
theorem test_decode_padd : decode 0x00102020#32 = .ok (.padd 2 0 1) := by decide +kernel
theorem test_decode_pdbl : decode 0x00001021#32 = .ok (.pdbl 1 0) := by decide +kernel
theorem test_decode_pmul : decode 0x00733022#32 = .ok (.pmul 3 3 7) := by decide +kernel
theorem test_decode_pchk : decode 0x00020023#32 = .ok (.pchk 2) := by decide +kernel
theorem test_decode_pldg : decode 0x00003024#32 = .ok (.pldg 3) := by decide +kernel
theorem test_decode_imppriv : decode 0xFF003030#32 = .ok (.imppriv 3 255) := by decide +kernel
theorem test_decode_imppub : decode 0x41001031#32 = .ok (.imppub 1 65) := by decide +kernel
theorem test_decode_exppriv : decode 0x00020032#32 = .ok (.exppriv 2) := by decide +kernel
theorem test_decode_exppub : decode 0x00010033#32 = .ok (.exppub 1) := by decide +kernel
theorem test_decode_derive : decode 0x00021034#32 = .ok (.derive 1 2) := by decide +kernel
theorem test_decode_dispose : decode 0x00003035#32 = .ok (.dispose 3) := by decide +kernel
theorem test_decode_sign : decode 0x00010040#32 = .ok (.sign 1) := by decide +kernel
theorem test_decode_verify : decode 0x40010041#32 = .ok (.verify 1 64) := by decide +kernel

/-- A word bit by bit: `len` 0, `rb` 2, `ra` 1, `rd` 3, reserved 0, `m` 0, opcode `0x10` (R90). -/
theorem test_decode_bits :
    decode 0b00000000_0010_0001_0011_000_0_00010000#32 = .ok (.fadd .p 3 1 2) := by decide +kernel

/-- The illegal words of 95_test_vectors.md V-ENC. -/
theorem test_decode_illegal :
    ([0x00000001, 0x000000FF, 0x00000015, 0x00000042, 0x00000100, 0x00001000, 0x00000210, 0x00000810, 0x00008010,
      0x00800010, 0x01000010, 0x00100013, 0x00001014, 0x00000118, 0x00001018, 0x00010019, 0x00004020, 0x00000120,
      0x00800022, 0x00001023, 0x00010024, 0x20010030, 0x00004035, 0x01000032, 0x00040040, 0x20000040, 0x40001041,
      0x40000141] : List Word32).all (fun c => (decode c).toOption.isNone) = true := by decide +kernel

theorem test_decode_causes :
    (decode 0x00000015#32, decode 0x00000210#32, decode 0x00000118#32, decode 0x01000010#32, decode 0x00008010#32) =
      (.error .unknownOpcode, .error .reservedBits, .error .modulusBit, .error .unusedField, .error .selectorRange) := by
  decide +kernel

theorem test_decodeTableWord :
    decodeTableWord 32 0x00201022 = some (.pmul 1 0 2) := by decide +kernel

/-- The word placed by `withFetchWord` is the one the next step runs. -/
theorem test_withFetchWord :
    (nextOf (step (State.reset.withFetchWord 32 0x00002024))).map (fun t => t.pt[2]) = some g1 := by decide +kernel

end Decoding

section Commands

/-! One step each; the values are those of 95_test_vectors.md. -/

/-- V-FIELD row 2. -/
theorem test_fadd_wraps :
    statusAndW 2 (issue (stW (Config.p - 1) (Config.p - 1) 7) 0x00102010#32) =
      (0x00000002#32, BitVec.ofNat 256 0xFFFFFFFF00000001000000000000000000000000FFFFFFFFFFFFFFFFFFFFFFFD) := by
  decide +kernel

/-- V-FIELD row 5: the destination stays. -/
theorem test_fadd_unreduced :
    statusAndW 2 (issue (stW 1 Config.p 7) 0x00102010#32) =
      (0x00000506#32, BitVec.ofNat 256 7) := by decide +kernel

/-- V-FIELD row 15. -/
theorem test_fsub_borrows :
    statusAndW 2 (issue (stW 0 1 7) 0x00102111#32) =
      (0x00000002#32, BitVec.ofNat 256 (Config.n - 1)) := by decide +kernel

/-- V-FIELD row 16. -/
theorem test_fsub_order :
    statusAndW 2 (issue (stW d11 d22 7) 0x00102111#32) =
      (0x00000002#32, BitVec.ofNat 256 0xEEEEEEEDEEEEEEEFEEEEEEEEEEEEEEEEABD5E99C96068D73E2A8B9B1EB521440) := by
  decide +kernel

/-- V-FIELD row 22. -/
theorem test_fmul_p :
    statusAndW 2 (issue (stW d11 d22 7) 0x00102012#32) =
      (0x00000002#32, BitVec.ofNat 256 0x0ECA8641F5C28F5C37C048D159E26AF379BE0246950C83FB70A3D70A3D70A3D7) := by
  decide +kernel

/-- V-FIELD row 23. -/
theorem test_fmul_n :
    statusAndW 2 (issue (stW d11 d22 7) 0x00102112#32) =
      (0x00000002#32, BitVec.ofNat 256 0x19F2129BF23D18A8CAE1E6470CE6CA59828B8EB0318BCF0B2791CF4B10111780) := by
  decide +kernel

/-- V-FIELD row 33. -/
theorem test_finv_n :
    statusAndW 2 (issue (stW 2 0 7) 0x00002113#32) =
      (0x00000002#32, BitVec.ofNat 256 0x7FFFFFFF800000007FFFFFFFFFFFFFFFDE737D56D38BCF4279DCE5617E3192A9) := by
  decide +kernel

/-- V-FIELD row 31. -/
theorem test_finv_zero :
    statusAndW 2 (issue (stW 0 0 7) 0x00002013#32) =
      (0x00000506#32, BitVec.ofNat 256 7) := by decide +kernel

/-- V-FIELD rows 38 and 39. -/
theorem test_feq_flags :
    (issue (stW 5 5 7) 0x00100014#32).flagsWord = 1#32 ∧ (issue (stW 5 6 7) 0x00100014#32).flagsWord = 0#32 := by
  decide +kernel

/-- V-FIELD row 43. -/
theorem test_feq_unreduced :
    (issue (stW Config.n 0 7) 0x00100114#32).statusWord = 0x00000506#32 := by decide +kernel

/-- V-MB row 1. -/
theorem test_mulw_largest :
    (issue (stW (2 ^ 256 - 1) (2 ^ 256 - 1) 7) 0x00100018#32).acc.toNat = 2 ^ 512 - 2 ^ 257 + 1 := by decide +kernel

/-- V-MB row 13. -/
theorem test_bred_p :
    statusAndW 2 (issue { stW 0 0 7 with acc := BitVec.ofNat 512 (2 ^ 512 - 1) } 0x00002019#32) =
      (0x00000002#32, BitVec.ofNat 256 0x00000004FFFFFFFDFFFFFFFFFFFFFFFEFFFFFFFBFFFFFFFF0000000000000002) := by
  decide +kernel

/-- V-MB row 14. -/
theorem test_bred_n :
    statusAndW 2 (issue { stW 0 0 7 with acc := BitVec.ofNat 512 (2 ^ 512 - 1) } 0x00002119#32) =
      (0x00000002#32, BitVec.ofNat 256 0x66E12D94F3D956202845B2392B6BEC594699799C49BD6FA683244C95BE79EEA1) := by
  decide +kernel

/-- V-MB row 32. -/
theorem test_mmul_p :
    statusAndW 2 (issue (stW d11 d22 7) 0x0010201A#32) =
      (0x00000002#32, BitVec.ofNat 256 0x0C83FB72DDDDDDDDEEEEEEEEE81B4E81B97530ECB4E81B4E7D27D27D2EA61D95) := by
  decide +kernel

/-- V-MB row 33. -/
theorem test_mmul_n :
    statusAndW 2 (issue (stW d11 d22 7) 0x0010211A#32) =
      (0x00000002#32, BitVec.ofNat 256 0x30A5B143682FD67D2111007AEAA6F9182E9F191D783033EDF68C3A5019C6C256) := by
  decide +kernel

/-- V-MB row 24. -/
theorem test_mtom :
    statusAndW 2 (issue (stW d11 0 7) 0x0000201B#32) =
      (0x00000002#32, BitVec.ofNat 256 0x0000000044444444333333333333333322222221EEEEEEEEDDDDDDDDDDDDDDDE) := by
  decide +kernel

/-- V-MB row 25. -/
theorem test_mtom_unreduced :
    statusAndW 2 (issue (stW Config.p 0 7) 0x0000201B#32) =
      (0x00000506#32, BitVec.ofNat 256 7) := by decide +kernel

/-- V-MB row 27. -/
theorem test_mfrom_p :
    statusAndW 2 (issue (stW 1 0 7) 0x0000201C#32) =
      (0x00000002#32, BitVec.ofNat 256 0xFFFFFFFE00000003FFFFFFFD0000000200000001FFFFFFFE0000000300000000) := by
  decide +kernel

/-- V-MB row 28. -/
theorem test_mfrom_n :
    statusAndW 2 (issue (stW 1 0 7) 0x0000211C#32) =
      (0x00000002#32, BitVec.ofNat 256 0x60D066334905C1E907F8B6041E607725BADEF3E243566FAFCE1BC8F79C197C79) := by
  decide +kernel

/-- V-POINT row 3. -/
theorem test_padd_chord :
    (let t := issue (stPt g1 g2) 0x00102020#32; (t.pt[2], t.statusWord, t.flagsWord)) =
      (g3, 0x00000002#32, 0#32) := by decide +kernel

/-- V-POINT row 5: the destination is zeroed and `INF` set. -/
theorem test_padd_opposite :
    (let t := issue (stPt g1 (finite Config.gx (Config.p - Config.gy))) 0x00101020#32; (t.pt[1], t.statusWord, t.flagsWord)) =
      ({ x := 0, y := 0, inf := true }, 0x00000002#32, 2#32) := by decide +kernel

/-- V-POINT row 2. -/
theorem test_pdbl :
    (let t := issue (stPt g1 g1) 0x00002021#32; (t.pt[2], t.statusWord, t.flagsWord)) =
      (g2, 0x00000002#32, 0#32) := by decide +kernel

/-- V-POINT row 11: off the curve, the destination stays. -/
theorem test_pdbl_off_curve :
    (let t := issue (stPt (finite Config.gx (Config.gy + 1)) g2) 0x00001021#32; (t.pt[1], t.statusWord, t.flagsWord)) =
      (g2, 0x00000306#32, 0#32) := by decide +kernel

/-- V-POINT row 18. -/
theorem test_pmul_two :
    (let t := issue { stPt g1 g1 with w := (stW 0 2 0).w } 0x00102022#32; (t.pt[2], t.statusWord)) = (g2, 0x00000002#32) := by
  decide +kernel

/-- V-POINT row 27: the point is checked whatever the scalar. -/
theorem test_pmul_zero_off_curve :
    (let t := issue (stPt (finite Config.gx (Config.gy + 1)) g2) 0x00101022#32; (t.pt[1], t.statusWord, t.flagsWord)) =
      (g2, 0x00000306#32, 0#32) := by decide +kernel

/-- V-POINT row 29. -/
theorem test_pchk_infinity :
    (issue State.reset 0x00000023#32).statusWord = 0x00000306#32 := by decide +kernel

/-- V-POINT row 34. -/
theorem test_pchk_unreduced :
    (issue (stPt (finite Config.gx (2 ^ 256 - 1)) g1) 0x00000023#32).statusWord = 0x00000306#32 := by decide +kernel

/-- V-POINT row 1. -/
theorem test_pldg :
    (let t := issue (stPt g2 g2) 0x00001024#32; (t.pt[1], t.statusWord, t.flagsWord)) =
      (g1, 0x00000002#32, 0#32) := by decide +kernel

/-- V-KEY row 2. -/
theorem test_imppriv_last :
    (issue (stKey (be32 (BitVec.ofNat 256 (Config.n - 1)))) 0x20000030#32).ks[0] =
      { d := BitVec.ofNat 256 (Config.n - 1), valid := true } := by decide +kernel

/-- V-KEY rows 3 and 7. -/
theorem test_imppriv_errors :
    (issue (stKey (be32 (BitVec.ofNat 256 Config.n))) 0x20000030#32).statusWord = 0x00000206#32 ∧
      (issue (stKey (be32 (BitVec.ofNat 256 d11))) 0x21000030#32).statusWord = 0x00000106#32 := by decide +kernel

/-- V-KEY rows 16 and 18. -/
theorem test_imppub_errors :
    (issue (stKey (pubBytes 0x02#8 Config.gx Config.gy)) 0x21000031#32).statusWord = 0x00000106#32 ∧
      (issue (stKey (pubBytes 0x02#8 Config.gx Config.gy)) 0x41000031#32).statusWord = 0x00001306#32 := by
  decide +kernel

/-- V-KEY row 11. -/
theorem test_imppub_off_curve :
    (issue (stKey (pubBytes 0x04#8 Config.gx (Config.gy + 1))) 0x41000031#32).statusWord = 0x00000306#32 := by
  decide +kernel

/-- V-KEY row 25. -/
theorem test_exppriv :
    (let t := issue ((stPriv d11).writeBuffer keyBase [1, 2, 3]) 0x00000032#32;
      (t.memRead 0x100, t.memRead 0x11C, t.memRead 0x120, t.memRead 0x140)) = (0x11111111#32, 0x11111111#32, 0#32, 0#32) := by
  decide +kernel

/-- S7, the words of the exported key. -/
theorem test_exppub :
    (let t := issue (stPub q11x q11y) 0x00000033#32; (t.memRead 0x100, t.memRead 0x120, t.memRead 0x140)) =
      (0xE6170204#32, 0x7D4A19ED#32, 0x00000094#32) := by decide +kernel

/-- V-KEY row 26. -/
theorem test_derive :
    (issue (stPriv 1) 0x00000034#32).kp[0] =
      { x := BitVec.ofNat 256 Config.gx, y := BitVec.ofNat 256 Config.gy, valid := true } := by decide +kernel

/-- V-KEY row 22. -/
theorem test_derive_empty :
    (issue State.reset 0x00000034#32).statusWord = 0x00001106#32 := by decide +kernel

/-- V-KEY rows 19 to 21. -/
theorem test_dispose_twice :
    (let t := issue (stPriv d11) 0x00000035#32; (t.ks[0], (issue t 0x00000035#32).statusWord, (issue t 0x00000032#32).statusWord)) =
      ({ d := 0, valid := false }, 0x00000002#32, 0x00001106#32) := by decide +kernel

/-- V-SIGN row 1, after a rejected candidate. -/
theorem test_sign_random :
    (let t := nextOr State.reset (exec (.sign 0) (stSign d11 1 dig7 [.ok 0, .ok 1, .ok 5] .timesOut));
      (t.statusWord, t.sigR, t.sigS, t.env.entropy.answers)) = (0x00000002#32, Config.gx,
        0x94458C8153A95F0E29A386DC6472164710F071798457C9C12B9D30083A2F5614, [.ok 5]) := by decide +kernel

/-- V-SIGN rows 9 and 12, V-ERR row 3. -/
theorem test_sign_errors :
    ((nextOr State.reset (exec (.sign 0) (stSign d11 1 dig7 [.ok 0, .fail] .timesOut))).statusWord,
      (nextOr State.reset (exec (.sign 0) (stSign d11 3 dig7 [.ok 1] .timesOut))).statusWord,
      (nextOr State.reset (exec (.sign 1) (stSign d11 0 dig7 [.ok 1] .timesOut))).statusWord) =
      (0x00000706#32, 0x00001206#32, 0x00001106#32) := by decide +kernel

/-- By hand from R250: with `e = r = s`, `P = G + Q`, so `r = (3*G).x` verifies under `Q = 2*G` and not under `Q = G`. -/
theorem test_verify :
    (let r := g3.x.toNat; let s := stVerify g2.x.toNat g2.y.toNat r r r
     ((issue s 0x40000041#32).flagsWord, (issue s 0x40000041#32).statusWord,
      (issue (stVerify Config.gx Config.gy r r r) 0x40000041#32).flagsWord)) = (4#32, 0x00000002#32, 0#32) := by
  decide +kernel

/-- V-VERIFY rows 8, 11 and 18. -/
theorem test_verify_malformed :
    ((issue (stVerify q11x q11y dig7 0 1) 0x40000041#32).statusWord,
      (issue (stVerify q11x q11y dig7 1 Config.n) 0x40000041#32).statusWord, (issue State.reset 0x3F020041#32).statusWord) =
      (0x00000606#32, 0x00000606#32, 0x00001106#32) := by decide +kernel

/-- R270: a `NOP` clears the outcome and leaves `WRDROP`. -/
theorem test_nop :
    (issue { State.reset with
      status := { done := true, err := true, wrdrop := true, errcode := 5 }
      flags := { eq := true, inf := false, ok := false } } 0#32).statusWord = 0x0000000A#32 := by decide +kernel

/-- V-ERR row 5. -/
theorem test_illegal :
    (issue (stW 0 0 0) 0x00101013#32).statusWord = 0x00001006#32 := by decide +kernel

end Commands

section HostPort

/-- V-MEM: the lanes of a word write, and the constants. -/
theorem test_lanes :
    (State.reset.memWrite 0x200 0x12345678#32).w[0] = BitVec.ofNat 256 (0x78563412 * 2 ^ 224) ∧
    (State.reset.memWrite 0x07C 0x05000000#32).acc = 5#512 ∧
    State.reset.memRead 0x83C = 0x512563FC#32 ∧ State.reset.memRead 0x8BC = 0xF551BF37#32 := by decide +kernel

/-- V-MEM: `PTINF`, `CFG` and `CTRL`. -/
theorem test_control_registers :
    (State.reset.memWrite 0x400 0x0000000A#32).ptinfWord = 0x0000000A#32 ∧
    (State.reset.memWrite 0x010 0xFFFFFFFF#32).cfgWord = 3#32 ∧
    (State.reset.memWrite 0x018 0#32) = State.reset := by decide +kernel

/-- V-MEM: an access of another width or alignment or outside the window is refused. -/
theorem test_bus_error :
    ([.read 0x008 1, .read 0x002 4, .write 0x200 8 0#32, .read 0x1000 4] : List HostAccess).all
      (fun a => (State.reset.hostAccess a).env.response == some .busError) = true := by decide +kernel

/-- V-MEM, busy window: `BUSY` shows, data reads zero, a write is dropped and recorded. -/
theorem test_busy_window :
    (let s := (stW 2 0 0).memWrite 0x004 0x00001013#32
     let t := s.memWrite 0x21C 0x03000000#32
     (s.memRead 0x008, s.memRead 0x004, s.memRead 0x21C, s.memRead 0x000, t.memRead 0x008, t.w == s.w)) =
      (1#32, 0x00001013#32, 0#32, 0x50323536#32, 9#32, true) := by decide +kernel

/-- V-ERR: the interrupt line. -/
theorem test_irq :
    (let s := issue (State.reset.memWrite 0x014 2#32) 0x00001013#32
     (s.irq, (s.memWrite 0x008 4#32).statusWord, (s.memWrite 0x008 4#32).irq)) = (true, 0x00000502#32, false) := by
  decide +kernel

/-- V-RESET 2: a soft reset removes the pending step, and the answer of an abandoned entropy request is discarded. -/
theorem test_soft_reset :
    (let s := ((stW 2 0 0).memWrite 0x004 0x00001013#32).memWrite 0x018 1#32
     (s == State.reset, nextOf (step s) == some State.reset)) = (true, true) ∧
    (let s := nextOr State.reset (exec (.sign 0) (stSign d11 1 dig7 [.ok 0] .silent))
     (s.seq, s.env.entropy.outstanding, (s.resetCore.supplyEntropy (.ok 1)).env.entropy.answers)) =
      (.busy, true, []) := by decide +kernel

end HostPort

section Methods

/-- The constants of 41_montgomery_barrett.md R141 satisfy their definitions. -/
theorem test_constants :
    ([.p, .n] : List Modulus).all (fun m => (radixInv m * Config.radix % modulus m == 1) &&
      ((negInv m * modulus m + 1) % Config.radix == 0)) = true := by decide +kernel

/-- The Jacobian formulas of R179 agree with the group law on `G + 2G` and `2*G`. -/
theorem test_jacobian :
    (jdbl (Jacobian.ofPoint basePoint)).toPoint = g2.point ∧
    (jadd (Jacobian.ofPoint basePoint) (jdbl (Jacobian.ofPoint basePoint))).toPoint = g3.point := by decide +kernel

/-- SHA-256 of the empty string (PRESUMED: from general knowledge), the hash under R227. -/
theorem test_sha256 : beNat (sha256 []) = 0xE3B0C44298FC1C149AFBF4C8996FB92427AE41E4649B934CA495991B7852B855 := by
  decide +kernel

/-- `n*G = INF` (10_state.md R40). -/
theorem base_order : pmul Config.n (.affine Config.gx Config.gy) = .inf := by decide +kernel

end Methods

section Witnesses

/-! For each obligation with hypotheses, a state and operands that meet them. -/

theorem witness_DecodeInvertsEncode : (Instr.fadd .n 7 7 7).wellFormed = true ∧ (Instr.verify 3 255).wellFormed = true := by
  decide

theorem witness_EncodeInvertsDecode : decode 0xFF003030#32 = .ok (.imppriv 3 255) := by decide +kernel

theorem witness_TableIsUnambiguousAndChecksSelectors :
    (opcodeTable[1].accepts 0x00777110#32 = true ∧ opcodeTable[1].accepts 0x00777110#32 = true) ∧
    (Instr.fadd .p 8 0 0).wellFormed = false ∧ (Instr.sign 4).wellFormed = false := by decide +kernel

theorem witness_StepRunsTheDecodedCommand :
    (let s := State.reset.accept 0x00002024#32
     s.seq = .busy ∧ decode s.cmdLatch = .ok (.pldg 2) ∧ s.env.agenda = []) ∧
    (let s := (State.reset.accept 0x00002024#32).setAgenda [.engine, .hardwareReset]
     s.seq = .busy ∧ decode s.cmdLatch = .ok (.pldg 2) ∧ s.env.agenda = .engine :: [.hardwareReset]) := by
  decide +kernel

theorem witness_IllegalWordOnlyReports :
    (∀ r ∈ opcodeTable, r.accepts 0x00008010#32 = false) ∧ (stW 1 2 3).seq = .idle ∧ (stW 1 2 3).env.agenda = [] := by
  decide +kernel

theorem witness_CommandWriteIsAcceptedWhenIdle : (stW 1 2 3).seq = .idle ∧ ((stW 1 2 3).accept 0#32).seq = .busy := by
  decide

theorem witness_CommandsEndOnlyWithTheirErrors :
    ∃ t u, (Instr.finv .p 2 0).wellFormed = true ∧
      exec (.finv .p 2 0) ((stW 3 0 0).accept 0#32) = .next t ∧ t.seq = .idle ∧ t.status.err = false ∧
      exec (.finv .p 2 0) ((stW 0 0 0).accept 0#32) = .next u ∧ u.seq = .idle ∧ u.status.err = true :=
  ⟨_, _, by decide, eq_nextOr State.reset _ (by decide +kernel), by decide +kernel, by decide +kernel,
    eq_nextOr State.reset _ (by decide +kernel), by decide +kernel, by decide +kernel⟩

theorem witness_CommandsWriteOnlyTheirParts : ∃ t, exec (.fadd .p 2 0 1) (stW 1 2 3) = .next t :=
  ⟨_, eq_nextOr State.reset _ (by decide +kernel)⟩

/-- Largest reduced and smallest unreduced operands, for both moduli: the hypotheses of the statements on two operands. -/
theorem witness_reducedOperands :
    (let s := stW (Config.p - 1) (Config.n - 1) Config.p
     (s.w[(0 : Fin 8)].toNat < modulus .p ∧ s.w[(1 : Fin 8)].toNat < modulus .p) ∧
     (s.w[(1 : Fin 8)].toNat < modulus .n ∧ s.w[(1 : Fin 8)].toNat < modulus .n) ∧
     ¬(s.w[(1 : Fin 8)].toNat < modulus .p ∧ s.w[(2 : Fin 8)].toNat < modulus .p) ∧
     ¬(s.w[(0 : Fin 8)].toNat < modulus .n ∧ s.w[(1 : Fin 8)].toNat < modulus .n)) := by decide +kernel

theorem witness_FaddWritesTheSum :
    (let s := stW (Config.p - 1) (Config.n - 1) Config.p
     (s.w[(0 : Fin 8)].toNat < modulus .p ∧ s.w[(1 : Fin 8)].toNat < modulus .p) ∧
     ¬(s.w[(1 : Fin 8)].toNat < modulus .p ∧ s.w[(2 : Fin 8)].toNat < modulus .p)) :=
  ⟨witness_reducedOperands.1, witness_reducedOperands.2.2.1⟩

theorem witness_FsubWritesTheDifference :
    (let s := stW (Config.p - 1) (Config.n - 1) Config.p
     (s.w[(0 : Fin 8)].toNat < modulus .p ∧ s.w[(1 : Fin 8)].toNat < modulus .p) ∧
     ¬(s.w[(1 : Fin 8)].toNat < modulus .p ∧ s.w[(2 : Fin 8)].toNat < modulus .p)) :=
  ⟨witness_reducedOperands.1, witness_reducedOperands.2.2.1⟩

theorem witness_FmulWritesTheProduct :
    (let s := stW (Config.p - 1) (Config.n - 1) Config.p
     (s.w[(0 : Fin 8)].toNat < modulus .p ∧ s.w[(1 : Fin 8)].toNat < modulus .p) ∧
     ¬(s.w[(1 : Fin 8)].toNat < modulus .p ∧ s.w[(2 : Fin 8)].toNat < modulus .p)) :=
  ⟨witness_reducedOperands.1, witness_reducedOperands.2.2.1⟩

theorem witness_MmulWritesTheMontgomeryProduct :
    (let s := stW (Config.p - 1) (Config.n - 1) Config.p
     (s.w[(0 : Fin 8)].toNat < modulus .p ∧ s.w[(1 : Fin 8)].toNat < modulus .p) ∧
     ¬(s.w[(1 : Fin 8)].toNat < modulus .p ∧ s.w[(2 : Fin 8)].toNat < modulus .p)) :=
  ⟨witness_reducedOperands.1, witness_reducedOperands.2.2.1⟩

theorem witness_FeqWritesOnlyTheEqFlag :
    (let s := stW (Config.p - 1) (Config.n - 1) Config.p
     (s.w[(0 : Fin 8)].toNat < modulus .p ∧ s.w[(1 : Fin 8)].toNat < modulus .p) ∧
     ¬(s.w[(1 : Fin 8)].toNat < modulus .p ∧ s.w[(2 : Fin 8)].toNat < modulus .p)) :=
  ⟨witness_reducedOperands.1, witness_reducedOperands.2.2.1⟩

theorem witness_FinvWritesTheFermatPower :
    (let s := stW 1 (Config.n - 1) 0
     (0 < s.w[(0 : Fin 8)].toNat ∧ s.w[(0 : Fin 8)].toNat < modulus .p) ∧
     (0 < s.w[(1 : Fin 8)].toNat ∧ s.w[(1 : Fin 8)].toNat < modulus .n) ∧
     (s.w[(2 : Fin 8)].toNat = 0 ∨ modulus .p ≤ s.w[(2 : Fin 8)].toNat)) ∧
    (let s := stW Config.p Config.n 0
     (s.w[(0 : Fin 8)].toNat = 0 ∨ modulus .p ≤ s.w[(0 : Fin 8)].toNat) ∧
     (s.w[(1 : Fin 8)].toNat = 0 ∨ modulus .n ≤ s.w[(1 : Fin 8)].toNat)) := by decide +kernel

theorem witness_FinvResultIsTheInverse :
    (0 < 1 ∧ 1 < modulus .p) ∧ (0 < Config.n - 1 ∧ Config.n - 1 < modulus .n) := by decide +kernel

theorem witness_MtomAndMfromConvert :
    (let s := stW (Config.p - 1) Config.n 0
     s.w[(0 : Fin 8)].toNat < modulus .p ∧ modulus .n ≤ s.w[(1 : Fin 8)].toNat) := by decide +kernel

theorem witness_BarrettMethodReduces : 2 ^ 512 - 1 < 2 ^ 512 ∧ Config.n * Config.n < 2 ^ 512 := by decide +kernel

theorem witness_MontgomeryMethodMultiplies : Config.p - 1 < modulus .p ∧ Config.n - 1 < modulus .n := by
  decide +kernel

/-- Both moduli; `wx = w0` is the first source itself, `wy = w1` the second. -/
theorem witness_ThreePathsToOneProduct :
    (let s := stW (Config.p - 1) (Config.n - 1) 0
     s.w[(0 : Fin 8)].toNat < modulus .p ∧ s.w[(1 : Fin 8)].toNat < modulus .p) ∧
    (let s := stW (Config.n - 1) 0 0
     s.w[(0 : Fin 8)].toNat < modulus .n ∧ s.w[(1 : Fin 8)].toNat < modulus .n) ∧
    ((0 : Fin 8) ≠ 1 ∧ (1 : Fin 8) ≠ 0) := by decide +kernel

/-- A finite valid point, `INF` with stale coordinates, and an invalid point. -/
theorem witness_PaddWritesTheSumOfPoints :
    (let s := stPt g1 { g2 with inf := true }
     s.pt[(0 : Fin 4)].point.valid = true ∧ s.pt[(1 : Fin 4)].point.valid = true) ∧
    (let s := stPt g1 (finite Config.p 0)
     ¬(s.pt[(0 : Fin 4)].point.valid = true ∧ s.pt[(1 : Fin 4)].point.valid = true)) := by decide +kernel

theorem witness_PdblWritesTheDouble :
    (stPt g1 g1).pt[(0 : Fin 4)].point.valid = true ∧
    (stPt (finite 0 0) g1).pt[(0 : Fin 4)].point.valid = false := by decide +kernel

theorem witness_PmulWritesTheScalarMultiple :
    (stPt g1 g1).pt[(2 : Fin 4)].point.valid = true ∧
    (stPt (finite Config.gx (Config.gy + 1)) g1).pt[(0 : Fin 4)].point.valid = false := by decide +kernel

theorem witness_PchkValidatesAndWritesNothing :
    (let r := (stPt g1 (finite Config.p 0)).pt[(0 : Fin 4)]
     r.inf = false ∧ onCurve r.x.toNat r.y.toNat = true ∧ pmul Config.n (.affine r.x.toNat r.y.toNat) = .inf) ∧
    (let r := (stPt g1 (finite Config.p 0)).pt[(1 : Fin 4)]
     r.inf = true ∨ onCurve r.x.toNat r.y.toNat = false) ∧ (stPt g1 g1).pt[(2 : Fin 4)].inf = true := by
  refine ⟨⟨by decide, by decide +kernel, ?_⟩, by decide +kernel, by decide⟩
  have hx : (stPt g1 (finite Config.p 0)).pt[(0 : Fin 4)].x.toNat = Config.gx := by decide +kernel
  have hy : (stPt g1 (finite Config.p 0)).pt[(0 : Fin 4)].y.toNat = Config.gy := by decide +kernel
  rw [hx, hy]
  exact base_order

theorem witness_PaddStaysOnTheCurve : basePoint.valid = true ∧ g2.point.valid = true := by decide +kernel

theorem witness_ImpprivChecksLengthThenRange :
    (31#8).toNat ≠ 32 ∧ (33#8).toNat ≠ 32 ∧ (32#8).toNat = 32 ∧
    Memory.readNat (stKey []).mem keyBase 32 = 0 ∧
    Config.n ≤ Memory.readNat (stKey (be32 (BitVec.ofNat 256 Config.n))).mem keyBase 32 ∧
    0 < Memory.readNat (stKey (be32 1)).mem keyBase 32 ∧
    Memory.readNat (stKey (be32 (BitVec.ofNat 256 (Config.n - 1)))).mem keyBase 32 < Config.n := by decide +kernel

theorem witness_ImppubChecksLengthTagAndPoint :
    ((64#8).toNat ≠ 65 ∧ (66#8).toNat ≠ 65 ∧ (65#8).toNat = 65) ∧
    ¬Memory.read (stKey (pubBytes 0x02#8 Config.gx Config.gy)).mem keyBase = 0x04#8 ∧
    (let m := (stKey (pubBytes 0x04#8 Config.gx (Config.gy + 1))).mem
     Memory.read m keyBase = 0x04#8 ∧
     onCurve (Memory.readNat m (keyBase + 1) 32) (Memory.readNat m (keyBase + 33) 32) = false) ∧
    (let m := (stKey (pubBytes 0x04#8 Config.gx Config.gy)).mem
     Memory.read m keyBase = 0x04#8 ∧
     onCurve (Memory.readNat m (keyBase + 1) 32) (Memory.readNat m (keyBase + 33) 32) = true ∧
     pmul Config.n (.affine (Memory.readNat m (keyBase + 1) 32) (Memory.readNat m (keyBase + 33) 32)) = .inf) := by
  have hx : Memory.readNat (stKey (pubBytes 0x04#8 Config.gx Config.gy)).mem (keyBase + 1) 32 = Config.gx := by
    decide +kernel
  have hy : Memory.readNat (stKey (pubBytes 0x04#8 Config.gx Config.gy)).mem (keyBase + 33) 32 = Config.gy := by
    decide +kernel
  refine ⟨by decide, by decide +kernel, by decide +kernel, by decide +kernel, ?_, ?_⟩
  · rw [hx, hy]; decide +kernel
  · rw [hx, hy]; exact base_order

theorem witness_ExportsWriteTheWholeBuffer :
    Memory.wf (stKey [1, 2, 3]).mem ∧ (stPriv d11).ks[(0 : Fin 4)].valid = true ∧
    (stPriv d11).ks[(3 : Fin 4)].valid = false ∧ (stPub q11x q11y).kp[(0 : Fin 4)].valid = true ∧
    (stPub q11x q11y).kp[(3 : Fin 4)].valid = false ∧ Memory.wf (stPriv d11).mem ∧ Memory.wf (stPub q11x q11y).mem := by
  decide +kernel

theorem witness_DeriveFillsThePublicSlot :
    (stPriv 1).ks[(0 : Fin 4)].valid = true ∧ (stPriv 1).ks[(1 : Fin 4)].valid = false ∧
    pmul (stPriv 1).ks[(0 : Fin 4)].d.toNat basePoint = .affine Config.gx Config.gy := by decide +kernel

theorem witness_SignChecksSlotThenMode :
    (stSign d11 0 dig7 [] .silent).ks[(1 : Fin 4)].valid = false ∧
    (stSign d11 0 dig7 [] .silent).ks[(0 : Fin 4)].valid = true ∧
    (stSign d11 0 dig7 [] .silent).nonceMode = 0#2 ∧ (stSign d11 3 dig7 [] .silent).nonceMode = 3#2 := by
  decide +kernel

/-- With `k = 1` the equations of R244 hold: `r = Gx`, `s = e + r*d` (V-SIGN row 1). -/
theorem signs_one : Signs d11 (dig7 % Config.n) 1 Config.gx
    0x94458C8153A95F0E29A386DC6472164710F071798457C9C12B9D30083A2F5614 :=
  ⟨by decide, by decide, ⟨Config.gx, Config.gy, by decide +kernel, by decide +kernel⟩, by decide +kernel,
    by decide +kernel, by decide⟩

theorem witness_RandomSignUsesTheFirstAcceptedAnswer :
    (let s := stSign d11 1 dig7 [.ok 0, .ok (BitVec.ofNat 256 Config.n), .ok 1, .ok 5] .timesOut
     Memory.wf s.mem ∧ s.ks[(0 : Fin 4)].valid = true ∧ s.nonceMode = 1#2 ∧
     s.env.entropy.answers = [0, BitVec.ofNat 256 Config.n].map .ok ++ .ok 1 :: [.ok 5] ∧
     (∀ b ∈ ([0, BitVec.ofNat 256 Config.n] : List Word256),
       signCandidate s.ks[(0 : Fin 4)].d.toNat (s.digest % Config.n) b.toNat = none) ∧
     Signs s.ks[(0 : Fin 4)].d.toNat (s.digest % Config.n) (1 : Word256).toNat Config.gx
       0x94458C8153A95F0E29A386DC6472164710F071798457C9C12B9D30083A2F5614) := by
  have hd : (stSign d11 1 dig7 [.ok 0, .ok (BitVec.ofNat 256 Config.n), .ok 1, .ok 5] .timesOut).ks[(0 : Fin 4)].d.toNat =
      d11 := by decide +kernel
  have he : (stSign d11 1 dig7 [.ok 0, .ok (BitVec.ofNat 256 Config.n), .ok 1, .ok 5] .timesOut).digest = dig7 := by
    decide +kernel
  refine ⟨by decide +kernel, by decide +kernel, by decide, by decide +kernel, fun b hb => ?_, ?_⟩
  · rw [List.mem_pair] at hb
    rcases hb with rfl | rfl <;> decide +kernel
  · rw [hd, he]
    exact signs_one

theorem witness_RandomSignSurfacesEntropyFailure :
    (let s := stSign d11 1 dig7 [.ok 0, .fail, .ok 1] .timesOut
     s.ks[(0 : Fin 4)].valid = true ∧ s.nonceMode = 1#2 ∧
     (∀ b ∈ ([0] : List Word256), signCandidate s.ks[(0 : Fin 4)].d.toNat (s.digest % Config.n) b.toNat = none) ∧
     s.env.entropy.answers = ([0] : List Word256).map .ok ++ .fail :: [.ok 1]) ∧
    (let s := stSign d11 1 dig7 [.ok 0] .timesOut
     s.env.entropy.answers = ([0] : List Word256).map .ok ∧ s.env.entropy.whenEmpty = .timesOut) ∧
    (let s := stSign d11 1 dig7 [.ok 0] .silent
     s.env.entropy.answers = ([0] : List Word256).map .ok ∧ s.env.entropy.whenEmpty = .silent) := by
  refine ⟨⟨by decide +kernel, by decide, fun b hb => ?_, by decide +kernel⟩, by decide +kernel, by decide +kernel⟩
  rw [List.mem_singleton] at hb
  subst hb
  decide +kernel

/-- A nonce function whose first two candidates are rejected. -/
def nonceSample : Word256 → Word256 → Nat → Word256 := fun _ _ t => if t < 2 then 0#256 else 1#256

theorem witness_DeterministicSignUsesTheFirstAcceptedIndex :
    (let s := stSign d11 2 dig7 [] .silent
     Memory.wf s.mem ∧ s.ks[(0 : Fin 4)].valid = true ∧ s.nonceMode = 2#2 ∧
     (∀ u < 2, signCandidate s.ks[(0 : Fin 4)].d.toNat (s.digest % Config.n)
       (nonceSample s.ks[(0 : Fin 4)].d (BitVec.ofNat 256 s.digest) u).toNat = none) ∧
     Signs s.ks[(0 : Fin 4)].d.toNat (s.digest % Config.n)
       (nonceSample s.ks[(0 : Fin 4)].d (BitVec.ofNat 256 s.digest) 2).toNat Config.gx
       0x94458C8153A95F0E29A386DC6472164710F071798457C9C12B9D30083A2F5614) := by
  have hd : (stSign d11 2 dig7 [] .silent).ks[(0 : Fin 4)].d.toNat = d11 := by decide +kernel
  have he : (stSign d11 2 dig7 [] .silent).digest = dig7 := by decide +kernel
  refine ⟨by decide +kernel, by decide +kernel, by decide, by decide +kernel, ?_⟩
  rw [hd, he]
  exact signs_one

theorem witness_DeterministicSignEndsIffSomeIndexIsAccepted :
    (let s := stSign d11 2 dig7 [] .silent
     s.seq = .busy ∧ s.ks[(0 : Fin 4)].valid = true ∧ s.nonceMode = 2#2 ∧
     (∃ t, signCandidate s.ks[(0 : Fin 4)].d.toNat (s.digest % Config.n)
       (nonceSample s.ks[(0 : Fin 4)].d (BitVec.ofNat 256 s.digest) t).toNat ≠ none) ∧
     (∀ _ : Nat, signCandidate s.ks[(0 : Fin 4)].d.toNat (s.digest % Config.n) (0#256).toNat = none)) := by
  refine ⟨by decide, by decide +kernel, by decide, ⟨2, by decide +kernel⟩, fun _ => by decide +kernel⟩

theorem witness_SignedComponentsAreInRange :
    ∃ u, Memory.wf (stSign d11 1 dig7 [.ok 1] .silent).mem ∧ (stSign d11 1 dig7 [.ok 1] .silent).seq = .busy ∧
      exec (.sign (selOf (0 : Fin 4))) (stSign d11 1 dig7 [.ok 1] .silent) = .next u ∧ u.seq = .idle ∧ u.status.err = false :=
  ⟨_, by decide +kernel, by decide, eq_nextOr State.reset _ (by decide +kernel), by decide +kernel, by decide +kernel⟩

/-- A deterministic `SIGN` that completes, for a given nonce function. -/
theorem witness_DeterministicSignDependsOnKeyAndDigest :
    (let s := stSign d11 2 dig7 [] .silent
     let s' := (stSign d11 2 dig7 [.fail] .timesOut).writeAcc 5
     ∃ t t', Memory.wf s.mem ∧ Memory.wf s'.mem ∧ s.nonceMode = 2#2 ∧ s'.nonceMode = 2#2 ∧
      s.ks[(0 : Fin 4)].valid = true ∧ s'.ks[(0 : Fin 4)].valid = true ∧ s.ks[(0 : Fin 4)].d = s'.ks[(0 : Fin 4)].d ∧
      s.digest = s'.digest ∧ s.seq = .busy ∧ s'.seq = .busy ∧
      signWith nonceSample (selOf (0 : Fin 4)) s = .next t ∧ signWith nonceSample (selOf (0 : Fin 4)) s' = .next t' ∧
      EndsOk t ∧ EndsOk t') := by
  have search : ∀ e : EntropySource, ∃ r t, signSearch nonceSample .deterministic (BitVec.ofNat 256 d11) dig7
      (dig7 % Config.n) e = .signed r t e := by
    intro e
    obtain ⟨rs, h⟩ := Option.isSome_iff_exists.mp
      (show (indexedCandidate nonceSample (BitVec.ofNat 256 d11) dig7 (dig7 % Config.n) 2).isSome = true by
        decide +kernel)
    have h0 : ∀ i < 2, indexedCandidate nonceSample (BitVec.ofNat 256 d11) dig7 (dig7 % Config.n) i = none := by
      decide +kernel
    have hs := searchIndexed_of_first _ rs 2 0 (by simpa using h) (fun i hi => by simpa using h0 i hi)
    exact ⟨rs.1, rs.2, by simp [signSearch, hs]⟩
  have ends : ∀ s : State, signOperands (selOf (0 : Fin 4)) s = .ok (BitVec.ofNat 256 d11, .deterministic) →
      s.digest = dig7 → ∃ t, signWith nonceSample (selOf (0 : Fin 4)) s = .next t ∧ EndsOk t := by
    intro s ho hd
    obtain ⟨r, t, h⟩ := search s.env.entropy
    have he : s.digestScalar = dig7 % Config.n := by rw [State.digestScalar, hd]
    refine ⟨_, ?_, complete_endsOk ((s.setEntropy s.env.entropy).writeBuffer sigBase (sigEncoding r t))⟩
    simp only [signWith, ho, hd, he, h, State.concludeSign, conclude_ok]
  obtain ⟨t, ht, ht'⟩ := ends (stSign d11 2 dig7 [] .silent) (by rfl) (by decide +kernel)
  obtain ⟨u, hu, hu'⟩ := ends ((stSign d11 2 dig7 [.fail] .timesOut).writeAcc 5) (by rfl) (by decide +kernel)
  exact ⟨t, u, by decide +kernel, by decide +kernel, by decide, by decide, by decide +kernel, by decide +kernel,
    by decide +kernel, by decide +kernel, by decide, by decide, ht, hu, ht', hu'⟩

theorem witness_VerifyDecidesTheSignature :
    (stVerify q11x q11y dig7 1 1).kp[(3 : Fin 4)].valid = false ∧ (stVerify q11x q11y dig7 1 1).kp[(0 : Fin 4)].valid = true ∧
    ((63#8).toNat ≠ 64 ∧ (65#8).toNat ≠ 64 ∧ (64#8).toNat = 64) ∧
    ([stVerify q11x q11y dig7 0 1, stVerify q11x q11y dig7 1 Config.n].all (fun s =>
      !(0 < s.sigR ∧ s.sigR < Config.n ∧ 0 < s.sigS ∧ s.sigS < Config.n))) = true ∧
    (let s := stVerify q11x q11y dig7 (Config.n - 1) 1
     0 < Memory.readNat s.mem 0x0C0 32 ∧ Memory.readNat s.mem 0x0C0 32 < Config.n ∧
     0 < Memory.readNat s.mem 0x0E0 32 ∧ Memory.readNat s.mem 0x0E0 32 < Config.n) := by decide +kernel

theorem witness_SignatureVerifies :
    ∃ s1 s2, Memory.wf (stSign d11 1 dig7 [.ok 1] .silent).mem ∧
      (stSign d11 1 dig7 [.ok 1] .silent).ks[(0 : Fin 4)].valid = true ∧
      0 < (stSign d11 1 dig7 [.ok 1] .silent).ks[(0 : Fin 4)].d.toNat ∧
      (stSign d11 1 dig7 [.ok 1] .silent).ks[(0 : Fin 4)].d.toNat < Config.n ∧
      exec (.derive (selOf (1 : Fin 4)) (selOf (0 : Fin 4))) (stSign d11 1 dig7 [.ok 1] .silent) = .next s1 ∧
      exec (.sign (selOf (0 : Fin 4))) (s1.accept (encode (.sign (selOf (0 : Fin 4))))) = .next s2 ∧ EndsOk s2 := by
  have hd : exec (.derive (selOf (1 : Fin 4)) (selOf (0 : Fin 4))) (stSign d11 1 dig7 [.ok 1] .silent) =
      .next ((stSign d11 1 dig7 [.ok 1] .silent).writeKp 1 (derivedSlot (BitVec.ofNat 256 d11))).complete := rfl
  refine ⟨_, _, by decide +kernel, by decide +kernel, by decide +kernel, by decide +kernel, hd,
    eq_nextOr State.reset _ (by decide +kernel), by decide +kernel, by decide +kernel, by decide +kernel, by decide +kernel⟩

theorem witness_ReadsHaveNoSideEffect :
    legalAccess 0x000 4 ∧ legalAccess 0xFFC 4 ∧ ((stW 1 2 3).accept 0#32).seq = .busy ∧ 0x040 ≤ 0x040 ∧
    ([0x018, 0x01C, 0x03C].all (fun off => off % 4 = 0 ∧ 0x018 ≤ off ∧ off < 0x040)) = true ∧
    (stW 1 2 3).seq = .idle ∧ ([0x040, 0x3FC, 0x404, 0xFFC].all (fun off =>
      off % 4 = 0 ∧ 0x040 ≤ off ∧ off ≠ 0x400)) = true ∧
    ¬legalAccess 0x008 1 ∧ ¬legalAccess 0x002 4 ∧ ¬legalAccess 0x1000 4 := by decide +kernel

theorem witness_BusyWritesAreDropped : ((stW 1 2 3).accept 0#32).seq = .busy ∧ 0x014 ≠ 0x018 ∧ 0x01C ≠ 0x018 := by
  decide +kernel

theorem witness_WrittenWordReadsBack :
    Memory.wf (stKey [1, 2, 3]).mem ∧ (stKey [1, 2, 3]).seq = .idle ∧
    ([0x040, 0x07C, 0x080, 0x09C, 0x0C0, 0x140, 0x200, 0x2FC, 0x300, 0x3FC].all (fun o => writableWord o)) = true := by
  decide +kernel

theorem witness_ReadOnlyOffsetsIgnoreWrites :
    (stW 1 2 3).seq = .idle ∧ 0xFFC % 4 = 0 ∧ (0xFFC : Nat) ≤ 0xFFC ∧ (0#32).getLsbD 0 = false ∧
    ([0x01C, 0x03C, 0x0A0, 0x0BC, 0x144, 0x1FC, 0x404, 0x7FC, 0x8C0, 0xFFC].all (fun off =>
      (0x01C ≤ off ∧ off < 0x040) ∨ (0x0A0 ≤ off ∧ off < 0x0C0) ∨ (0x144 ≤ off ∧ off < 0x200) ∨
      (0x404 ≤ off ∧ off < 0x800) ∨ 0x8C0 ≤ off)) = true := by decide +kernel

theorem witness_ConstantsReadTheirValues : (stW 1 2 3).seq = .idle := by decide

theorem witness_ResetLeavesTheValuesOfTheTable :
    (1#32).getLsbD 0 = true ∧ State.reset = State.reset ∧
    takeTurn .hardwareReset (stW 1 2 3) = .next (stW 1 2 3).resetCore ∧
    (stW 1 2 3).memWrite 0x018 1#32 = (stW 1 2 3).resetCore := ⟨by decide, rfl, rfl, rfl⟩

theorem witness_SoftResetIsReset :
    (0xFFFFFFFF#32).getLsbD 0 = true ∧ (stW 1 2 3).env.entropy.outstanding = false ∧
    (let s := (stW 1 2 3).setEntropy { answers := [.ok 1], whenEmpty := .silent, outstanding := true, abandoned := 0 }
     s.env.entropy.outstanding = true ∧ s.env.entropy.answers = .ok 1 :: []) ∧
    (let s := (stW 1 2 3).setEntropy { answers := [], whenEmpty := .silent, outstanding := true, abandoned := 0 }
     s.env.entropy.outstanding = true ∧ s.env.entropy.answers = []) := by decide

theorem witness_StatusBitsClearByWritingOne : (stW 1 2 3).seq = .idle := by decide

theorem witness_OnlyThreeCommandsReadAPrivateKey :
    readsPrivate (.imppriv 0 32) = false ∧ readsPrivate (.verify 0 64) = false := by decide

/-- A state with a key in each kind of slot, bytes in a buffer and a command latched meets the invariant, and steps. -/
theorem witness_StepKeepsTheInvariant :
    ∃ t, (((stPriv d11).writeBuffer digBase [1, 2, 3]).accept 0x00000034#32).Inv ∧
      step (((stPriv d11).writeBuffer digBase [1, 2, 3]).accept 0x00000034#32) = .next t :=
  ⟨_, { memCanonical := by decide +kernel
        privValid := by decide +kernel
        privEmpty := by decide +kernel
        pubEmpty := by decide +kernel
        busyClear := fun _ => ⟨rfl, rfl, rfl, rfl⟩
        errCoded := by decide
        knownCode := .inl rfl
        failedClear := fun _ => rfl
        oneFlag := by decide }, eq_nextOr State.reset _ (by decide +kernel)⟩

theorem witness_StepKeepsPublicSlotsSound :
    ∃ t, ((stPub Config.gx Config.gy).accept 0x00000033#32).Inv ∧
      ((stPub Config.gx Config.gy).accept 0x00000033#32).PubSound ∧
      step ((stPub Config.gx Config.gy).accept 0x00000033#32) = .next t := by
  have hx : ((stPub Config.gx Config.gy).accept 0x00000033#32).kp[(0 : Fin 4)].x.toNat = Config.gx := by
    decide +kernel
  have hy : ((stPub Config.gx Config.gy).accept 0x00000033#32).kp[(0 : Fin 4)].y.toNat = Config.gy := by
    decide +kernel
  have hv : ∀ j : Fin 4, ((stPub Config.gx Config.gy).accept 0x00000033#32).kp[j].valid = true → j = 0 := by
    decide +kernel
  refine ⟨_, { memCanonical := by decide +kernel
               privValid := by decide +kernel
               privEmpty := by decide +kernel
               pubEmpty := by decide +kernel
               busyClear := fun _ => ⟨rfl, rfl, rfl, rfl⟩
               errCoded := by decide
               knownCode := .inl rfl
               failedClear := fun _ => rfl
               oneFlag := by decide }, ?_, eq_nextOr State.reset _ (by decide +kernel)⟩
  intro j hj
  obtain rfl := hv j hj
  rw [hx, hy]
  exact ⟨by decide +kernel, base_order⟩

end Witnesses

end Sys2Proof.Tests
end

/-! PROOF. The moduli `p` and `n` are primes, by Pratt certificates that the kernel evaluates. -/

namespace Sys2Proof.Machine

section Primality

/-- What shows a number to be a prime (Pratt): a residue, and the prime factors of the number less one, with repetition,
by which its order is that number less one. -/
structure PrattCertificate where
  value : Nat
  residue : Nat
  factors : List Nat

/-- The arithmetic of a certificate; that its factors are primes is left to others. -/
abbrev PrattCertificate.Holds (c : PrattCertificate) : Prop :=
  1 < c.value ∧ c.value < 2 ^ 256 ∧ c.factors.prod = c.value - 1 ∧
    powMod c.value c.residue 256 (c.value - 1) = 1 ∧
    ∀ q ∈ c.factors, powMod c.value c.residue 256 ((c.value - 1) / q) ≠ 1

/-- Certificates in an order in which each one's factors are known primes or values of certificates before it. -/
def prattChain (known : List Nat) : List PrattCertificate → Bool
  | [] => true
  | c :: rest => decide (c.Holds ∧ ∀ q ∈ c.factors, q ∈ known) && prattChain (c.value :: known) rest

/-- Square and multiply gives 1 exactly when the power is 1 in the ring of residues. -/
theorem powMod_eq_one_iff {m a e : Nat} (hm : 1 < m) (he : e < 2 ^ 256) :
    powMod m a 256 e = 1 ↔ (a : ZMod m) ^ e = 1 := by
  rw [powMod_eq m a 256 e he, ← Nat.cast_pow, ← Nat.cast_one (R := ZMod m),
    ZMod.natCast_eq_natCast_iff', Nat.mod_eq_of_lt hm]

/-- A certificate whose factors are primes shows a prime. -/
theorem PrattCertificate.Holds.prime {c : PrattCertificate} (h : c.Holds) (hprime : ∀ q ∈ c.factors, q.Prime) :
    c.value.Prime := by
  obtain ⟨hm, hlt, hprod, hone, hne⟩ := h
  refine lucas_primality c.value c.residue ((powMod_eq_one_iff hm (by omega)).mp hone) fun q hq hdvd => ?_
  obtain ⟨f, hf, hqf⟩ := (Nat.Prime.prime hq).dvd_prod_iff.mp (hprod ▸ hdvd)
  obtain rfl := (Nat.prime_dvd_prime_iff_eq hq (hprime f hf)).mp hqf
  have hdiv : (c.value - 1) / q < 2 ^ 256 := (Nat.div_le_self _ _).trans_lt (by omega)
  exact fun hpow => hne q hf ((powMod_eq_one_iff hm hdiv).mpr hpow)

/-- Every value of a chain over known primes is a prime. -/
theorem prime_of_prattChain {known : List Nat} {chain : List PrattCertificate} (h : prattChain known chain = true)
    (hknown : ∀ q ∈ known, q.Prime) : ∀ m ∈ chain.map PrattCertificate.value, m.Prime := by
  induction chain generalizing known with
  | nil => simp
  | cons c rest ih =>
    simp only [prattChain, Bool.and_eq_true, decide_eq_true_eq] at h
    obtain ⟨⟨hc, hfactors⟩, hrest⟩ := h
    have hprime : c.value.Prime := hc.prime fun q hq => hknown q (hfactors q hq)
    exact List.forall_mem_cons.mpr ⟨hprime, ih hrest (List.forall_mem_cons.mpr ⟨hprime, hknown⟩)⟩

/-- The prime factors below a million that the certificates of `p` and `n` come down to. -/
def smallFactors : List Nat :=
  [2, 3, 5, 7, 11, 17, 19, 23, 29, 41, 43, 53, 71, 107, 127, 131, 173, 197, 229, 257, 311, 373, 641, 1201, 1297,
    1531, 2411, 3023, 3407, 3677, 3769, 16879, 17449, 18169, 38189, 65537, 78283, 104471, 126241, 155317, 490463,
    704251]

/-- The certificates of `p`, of `n`, and of the large prime factors of each number less one. -/
def curveCertificates : List PrattCertificate :=
  [ ⟨6700417, 5, [2, 2, 2, 2, 2, 2, 2, 3, 17449]⟩,
    ⟨204061199, 11, [2, 11, 23, 107, 3769]⟩,
    ⟨34282281433, 17, [2, 2, 2, 3, 7, 204061199]⟩,
    ⟨66417393611, 6, [2, 5, 53, 173, 197, 3677]⟩,
    ⟨11290956913871, 13, [2, 5, 17, 66417393611]⟩,
    ⟨46076956964474543, 5, [2, 23, 18169, 78283, 704251]⟩,
    ⟨774023187263532362759620327192479577272145303, 3,
      [2, 3, 3, 2411, 34282281433, 11290956913871, 46076956964474543]⟩,
    ⟨835945042244614951780389953367877943453916927241, 11,
      [2, 2, 2, 3, 3, 3, 5, 774023187263532362759620327192479577272145303]⟩,
    ⟨Config.p, 6,
      [2, 3, 5, 5, 17, 257, 641, 1531, 65537, 490463, 6700417, 835945042244614951780389953367877943453916927241]⟩,
    ⟨9350987, 2, [2, 17, 229, 1201]⟩,
    ⟨187019741, 2, [2, 2, 5, 9350987]⟩,
    ⟨311245691, 2, [2, 5, 7, 17, 29, 29, 311]⟩,
    ⟨622491383, 5, [2, 311245691]⟩,
    ⟨3969899, 2, [2, 19, 104471]⟩,
    ⟨1002328039319, 19, [2, 126241, 3969899]⟩,
    ⟨191039911, 3, [2, 3, 5, 41, 155317]⟩,
    ⟨208150935158385979, 2, [2, 3, 11, 43, 127, 3023, 191039911]⟩,
    ⟨2624747550333869278416773953, 7, [2, 2, 2, 2, 2, 2, 3, 3, 1297, 16879, 208150935158385979]⟩,
    ⟨Config.n, 7,
      [2, 2, 2, 2, 3, 71, 131, 373, 3407, 17449, 38189, 187019741, 622491383, 1002328039319,
        2624747550333869278416773953]⟩ ]

theorem smallFactors_prime : ∀ q ∈ smallFactors, q.Prime := by norm_num [smallFactors]

theorem curveCertificates_prime : ∀ m ∈ curveCertificates.map PrattCertificate.value, m.Prime :=
  prime_of_prattChain (by decide +kernel) smallFactors_prime

/-- The field prime is a prime (10_state.md R40). -/
theorem p_prime : Config.p.Prime := curveCertificates_prime _ (by simp [curveCertificates])

/-- The group order is a prime (10_state.md R40). -/
theorem n_prime : Config.n.Prime := curveCertificates_prime _ (by simp [curveCertificates])

end Primality

end Sys2Proof.Machine

/-! PROOF. The model's point arithmetic is the group law of the curve over the field of `p` elements, and the base point has
order `n` in it (42_point_arithmetic.md). -/

namespace Sys2Proof.Machine

section GroupLaw

/-- The curve over the field of `p` elements (42_point_arithmetic.md R161). -/
def p256 : WeierstrassCurve.Affine (ZMod Config.p) :=
  { a₁ := 0, a₂ := 0, a₃ := 0, a₄ := (Config.a : ZMod Config.p), a₆ := (Config.b : ZMod Config.p) }

/-- The curve is smooth: its discriminant is not zero. -/
theorem p256_discriminant_ne_zero : p256.Δ ≠ 0 := by
  have hvalue : p256.Δ = ((-16 * (4 * Config.a ^ 3 + 27 * Config.b ^ 2) : Int) : ZMod Config.p) := by
    simp only [WeierstrassCurve.Δ, WeierstrassCurve.b₂, WeierstrassCurve.b₄, WeierstrassCurve.b₆, WeierstrassCurve.b₈,
      p256]
    push_cast
    ring
  rw [hvalue, Ne, ZMod.intCast_zmod_eq_zero_iff_dvd]
  decide +kernel

/-- A pair of field elements satisfies the short curve equation exactly when it is a smooth point. -/
theorem p256_nonsingular_iff [Fact Config.p.Prime] (x y : ZMod Config.p) :
    p256.Nonsingular x y ↔ y ^ 2 = x ^ 3 + Config.a * x + Config.b := by
  rw [← WeierstrassCurve.Affine.equation_iff_nonsingular_of_Δ_ne_zero p256_discriminant_ne_zero,
    WeierstrassCurve.Affine.equation_iff]
  simp [p256]

/-- The curve equation on integers is the curve equation of their residues (42_point_arithmetic.md R161). -/
theorem curveEquation_iff [Fact Config.p.Prime] (x y : Nat) :
    curveEquation x y = true ↔ p256.Nonsingular (x : ZMod Config.p) (y : ZMod Config.p) := by
  rw [curveEquation, beq_iff_eq, ← ZMod.natCast_eq_natCast_iff', p256_nonsingular_iff]
  push_cast
  ring_nf

theorem onCurve_iff (x y : Nat) :
    onCurve x y = true ↔ x < Config.p ∧ y < Config.p ∧ curveEquation x y = true := by
  simp [onCurve, coordsReduced, and_assoc]

/-- A model point stands for a point of the group: infinity for zero, a reduced pair for its residues. -/
inductive CurvePoint.StandsFor : CurvePoint → p256.Point → Prop
  | inf : StandsFor .inf 0
  | affine {x y : Nat} (hx : x < Config.p) (hy : y < Config.p)
      (h : p256.Nonsingular (x : ZMod Config.p) (y : ZMod Config.p)) : StandsFor (.affine x y) (.some _ _ h)

/-- The valid model points are those that stand for a point of the group (42_point_arithmetic.md R160). -/
theorem CurvePoint.valid_iff_standsFor [Fact Config.p.Prime] (q : CurvePoint) :
    q.valid = true ↔ ∃ g, q.StandsFor g := by
  cases q with
  | inf => exact ⟨fun _ => ⟨0, .inf⟩, fun _ => rfl⟩
  | affine x y =>
    simp only [CurvePoint.valid, onCurve_iff, curveEquation_iff]
    constructor
    · rintro ⟨hx, hy, h⟩
      exact ⟨_, .affine hx hy h⟩
    · rintro ⟨_, hstands⟩
      cases hstands with
      | affine hx hy h => exact ⟨hx, hy, h⟩

/-- A model point is infinity exactly when it stands for zero. -/
theorem CurvePoint.StandsFor.eq_inf_iff {q : CurvePoint} {g : p256.Point} (h : q.StandsFor g) : q = .inf ↔ g = 0 := by
  cases h with
  | inf => simp
  | affine hx hy h => simp [WeierstrassCurve.Affine.Point.some_ne_zero]

/-- Reduced numbers are equal when their residues are. -/
theorem eq_of_natCast_eq {x y : Nat} (hx : x < Config.p) (hy : y < Config.p)
    (h : (x : ZMod Config.p) = (y : ZMod Config.p)) : x = y := by
  rwa [ZMod.natCast_eq_natCast_iff', Nat.mod_eq_of_lt hx, Nat.mod_eq_of_lt hy] at h

/-- The residue of an integer as a field element. -/
theorem natCast_residue (v : Int) : ((residue v Config.p : Nat) : ZMod Config.p) = (v : ZMod Config.p) := by
  rw [← Int.cast_natCast, residue_cast v Config.p (modulus_pos .p), ZMod.intCast_mod]

/-- Fermat's power is the inverse of the field, also at zero (40_field_arithmetic.md R126). -/
theorem natCast_inv [Fact Config.p.Prime] (a : Nat) :
    ((inv a Config.p : Nat) : ZMod Config.p) = (a : ZMod Config.p)⁻¹ := by
  have hinv : inv a Config.p = a ^ (Config.p - 2) % Config.p := inv_eq .p a
  rw [hinv, ZMod.natCast_mod, Nat.cast_pow]
  by_cases ha : (a : ZMod Config.p) = 0
  · rw [ha, inv_zero, zero_pow (by decide)]
  · refine eq_inv_of_mul_eq_one_left ?_
    rw [← pow_succ, show Config.p - 2 + 1 = Config.p - 1 by decide]
    exact ZMod.pow_card_sub_one_eq_one ha

/-- Two reduced points are opposite in the model exactly when they are in the group (42_point_arithmetic.md R162). -/
theorem opposite_iff {x1 y1 x2 y2 : Nat} (hx1 : x1 < Config.p) (hx2 : x2 < Config.p) :
    (x1 = x2 ∧ (y1 + y2) % Config.p = 0) ↔
      (x1 : ZMod Config.p) = x2 ∧ (y1 : ZMod Config.p) = p256.negY (x2 : ZMod Config.p) (y2 : ZMod Config.p) := by
  have hx : x1 = x2 ↔ (x1 : ZMod Config.p) = x2 := ⟨congrArg _, eq_of_natCast_eq hx1 hx2⟩
  have hy : (y1 + y2) % Config.p = 0 ↔ (y1 : ZMod Config.p) = -y2 := by
    rw [← Nat.dvd_iff_mod_eq_zero, ← ZMod.natCast_eq_zero_iff, Nat.cast_add, add_eq_zero_iff_eq_neg]
  simp [hx, hy, WeierstrassCurve.Affine.negY, p256]

/-- The model's slope is the slope of the group law (42_point_arithmetic.md R162). -/
theorem natCast_slope [Fact Config.p.Prime] {x1 y1 x2 y2 : Nat} (hx1 : x1 < Config.p) (hx2 : x2 < Config.p)
    (hne : ¬((x1 : ZMod Config.p) = x2 ∧ (y1 : ZMod Config.p) = p256.negY (x2 : ZMod Config.p) (y2 : ZMod Config.p))) :
    ((slope x1 y1 x2 y2 : Nat) : ZMod Config.p) = p256.slope x1 x2 y1 y2 := by
  unfold slope
  by_cases hx : x1 = x2
  · subst hx
    have hy : (y1 : ZMod Config.p) ≠ p256.negY (x1 : ZMod Config.p) (y2 : ZMod Config.p) := fun h => hne ⟨rfl, h⟩
    rw [if_pos rfl, WeierstrassCurve.Affine.slope_of_Y_ne rfl hy, ZMod.natCast_mod]
    push_cast
    rw [natCast_inv, ZMod.natCast_mod, div_eq_mul_inv]
    simp only [p256, WeierstrassCurve.Affine.negY]
    push_cast
    ring_nf
  · have hx' : (x1 : ZMod Config.p) ≠ x2 := fun h => hx (eq_of_natCast_eq hx1 hx2 h)
    rw [if_neg hx, WeierstrassCurve.Affine.slope_of_X_ne hx', ZMod.natCast_mod, Nat.cast_mul, natCast_inv, subMod,
      subMod, natCast_residue, natCast_residue]
    push_cast
    rw [← neg_sub (x2 : ZMod Config.p), ← neg_sub (y2 : ZMod Config.p), neg_div_neg_eq, div_eq_mul_inv]

/-- The third point of a line stands for the sum of the group (42_point_arithmetic.md R162). -/
theorem lineSum_standsFor [Fact Config.p.Prime] {l x1 y1 x2 : Nat} {L : ZMod Config.p} (hl : (l : ZMod Config.p) = L)
    (h : p256.Nonsingular (p256.addX x1 x2 L) (p256.addY x1 x2 y1 L)) :
    (lineSum l x1 y1 x2).StandsFor (.some _ _ h) := by
  subst hl
  have hx : ((residue ((l : Int) * l - x1 - x2) Config.p : Nat) : ZMod Config.p) = p256.addX x1 x2 l := by
    rw [natCast_residue]
    simp [WeierstrassCurve.Affine.addX, p256, sq]
  have hy : ((residue ((l : Int) * (x1 - residue ((l : Int) * l - x1 - x2) Config.p) - y1) Config.p : Nat) :
      ZMod Config.p) = p256.addY x1 x2 y1 l := by
    rw [natCast_residue]
    push_cast
    rw [hx]
    simp only [WeierstrassCurve.Affine.addY, WeierstrassCurve.Affine.negAddY, WeierstrassCurve.Affine.negY, p256]
    ring
  revert h
  rw [← hx, ← hy]
  exact fun h => .affine (residue_lt _ _ (modulus_pos .p)) (residue_lt _ _ (modulus_pos .p)) h

/-- The model's addition is the addition of the group (42_point_arithmetic.md R162). -/
theorem CurvePoint.StandsFor.padd [Fact Config.p.Prime] {q r : CurvePoint} {g h : p256.Point}
    (hq : q.StandsFor g) (hr : r.StandsFor h) : (padd q r).StandsFor (g + h) := by
  cases hq with
  | inf => rwa [zero_add, Machine.padd]
  | affine hx1 hy1 h1 =>
    cases hr with
    | inf => rw [add_zero, Machine.padd]; exact .affine hx1 hy1 h1
    | affine hx2 hy2 h2 =>
      rw [Machine.padd]
      split
      · rename_i hopp
        obtain ⟨hx, hy⟩ := (opposite_iff hx1 hx2).mp hopp
        rw [WeierstrassCurve.Affine.Point.add_of_Y_eq hx hy]
        exact .inf
      · rename_i hopp
        have hne := mt (opposite_iff hx1 hx2).mpr hopp
        rw [WeierstrassCurve.Affine.Point.add_some hne]
        exact lineSum_standsFor (natCast_slope hx1 hx2 hne) _

/-- The low bits of a number, by the highest of them. -/
theorem mod_two_pow_succ (k i : Nat) : k % 2 ^ (i + 1) = 2 ^ i * (k.testBit i).toNat + k % 2 ^ i := by
  rw [Nat.mod_pow_succ, Nat.toNat_testBit, Nat.add_comm]

/-- The ladder from bit `i - 1` down: a difference of `d` between its two points is kept, and the low `i` bits of the
scalar are worked in (42_point_arithmetic.md R172). -/
theorem CurvePoint.StandsFor.ladder [Fact Config.p.Prime] {g d : p256.Point} (k i : Nat) {t0 t1 : CurvePoint}
    (h0 : t0.StandsFor g) (h1 : t1.StandsFor (g + d)) :
    (ladder k i t0 t1).StandsFor ((2 ^ i) • g + (k % 2 ^ i) • d) := by
  induction i generalizing g t0 t1 with
  | zero => simpa [Machine.ladder, Nat.mod_one] using h0
  | succ i ih =>
    have hsum : (Machine.padd t0 t1).StandsFor (g + g + d) := by rw [add_assoc]; exact h0.padd h1
    rw [Machine.ladder, mod_two_pow_succ]
    cases k.testBit i with
    | true =>
      have hdouble : (pdbl t1).StandsFor (g + g + d + d) := by
        rw [show g + g + d + d = (g + d) + (g + d) by abel]
        exact h1.padd h1
      rw [show 2 ^ (i + 1) • g + (2 ^ i * true.toNat + k % 2 ^ i) • d = 2 ^ i • (g + g + d) + (k % 2 ^ i) • d by
        simp only [Bool.toNat_true]; module]
      exact ih hsum hdouble
    | false =>
      rw [show 2 ^ (i + 1) • g + (2 ^ i * false.toNat + k % 2 ^ i) • d = 2 ^ i • (g + g) + (k % 2 ^ i) • d by
        simp only [Bool.toNat_false]; module]
      exact ih (h0.padd h0) hsum

/-- The model's scalar multiple is that of the group (42_point_arithmetic.md R172). -/
theorem CurvePoint.StandsFor.pmul [Fact Config.p.Prime] {q : CurvePoint} {g : p256.Point} (k : Nat) (hk : k < 2 ^ 256)
    (h : q.StandsFor g) : (pmul k q).StandsFor (k • g) := by
  have hladder := CurvePoint.StandsFor.ladder k 256 .inf (by rwa [zero_add] : q.StandsFor (0 + g))
  rwa [nsmul_zero, zero_add, Nat.mod_eq_of_lt hk] at hladder

/-- Adding the base point to itself `n` times gives infinity (42_point_arithmetic.md R176). -/
theorem pmul_n_basePoint : pmul Config.n basePoint = .inf := by decide +kernel

theorem n_lt : Config.n < 2 ^ 256 := (modulus_bounds .n).2

/-- The base point has the prime order `n`: a multiple below it is a finite point of the curve, in the group of order `n`
(43_key_material.md R201). -/
theorem pmul_basePoint_finite (d : Nat) (hpos : 0 < d) (hlt : d < Config.n) :
    ∃ x y, pmul d basePoint = .affine x y ∧ onCurve x y = true ∧ pmul Config.n (.affine x y) = .inf := by
  have : Fact Config.p.Prime := ⟨p_prime⟩
  obtain ⟨g, hg⟩ := basePoint.valid_iff_standsFor.mp basePoint_onCurve
  have hg0 : g ≠ 0 := mt hg.eq_inf_iff.mpr (by simp [basePoint])
  have hng : Config.n • g = 0 := (hg.pmul Config.n n_lt).eq_inf_iff.mp pmul_n_basePoint
  have hmul := hg.pmul d (hlt.trans n_lt)
  have horder : addOrderOf g = Config.n :=
    have : Fact Config.n.Prime := ⟨n_prime⟩
    addOrderOf_eq_prime hng hg0
  have hfinite : pmul d basePoint ≠ .inf := fun hinf =>
    Nat.not_dvd_of_pos_of_lt hpos hlt (horder ▸ addOrderOf_dvd_of_nsmul_eq_zero (hmul.eq_inf_iff.mp hinf))
  have hvalid : (pmul d basePoint).valid = true := (CurvePoint.valid_iff_standsFor _).mpr ⟨_, hmul⟩
  have hgroup : pmul Config.n (pmul d basePoint) = .inf := (hmul.pmul Config.n n_lt).eq_inf_iff.mpr (by
    rw [smul_comm, hng, nsmul_zero])
  cases hq : pmul d basePoint with
  | inf => exact absurd hq hfinite
  | affine x y =>
    rw [hq] at hvalid hgroup
    exact ⟨x, y, rfl, hvalid, hgroup⟩

end GroupLaw

end Sys2Proof.Machine

/-! PROOF. What a command can leave, said once for all 24 commands. -/

namespace Sys2Proof.Machine

section CommandEnds

/-- What the pseudocode of a command other than `SIGN` can leave when it reaches its end, by the parts it writes. -/
inductive CommandWrites (s : State) : List Part → State → Prop
  | nothing : CommandWrites s [] s
  | register (d : Fin 8) (v : Word256) : CommandWrites s [.w] (s.writeW d v)
  | accumulator (v : Word512) : CommandWrites s [.acc] (s.writeAcc v)
  | eqFlag (b : Bool) : CommandWrites s [.flags] (s.setEq b)
  | okFlag (b : Bool) : CommandWrites s [.flags] (s.setOk b)
  | point (d : Fin 4) (q : CurvePoint) : CommandWrites s [.pt, .flags] (s.pointResult d q)
  | importedScalar (i : Fin 4) (v : Nat) (hpos : 0 < v) (hlt : v < Config.n) :
      CommandWrites s [.ks] (s.writeKs i { d := BitVec.ofNat 256 v, valid := true })
  | disposedSlot (i : Fin 4) : CommandWrites s [.ks] (s.writeKs i { d := 0#256, valid := false })
  | importedPoint (j : Fin 4) (x y : Nat) (h : validate x y = .valid) :
      CommandWrites s [.kp] (s.writeKp j { x := BitVec.ofNat 256 x, y := BitVec.ofNat 256 y, valid := true })
  | derivedPoint (j i : Fin 4) (h : s.ks[i].valid = true) :
      CommandWrites s [.kp] (s.writeKp j (derivedSlot s.ks[i].d))
  | exported (bs : List Byte) (hlen : bs.length = 68) : CommandWrites s [.mem] (s.writeBuffer keyBase bs)

/-- All the ends of a command: its writes, one error, or one of the ends of `SIGN`, which uses up answers of the entropy
source and may go on waiting (60_exceptions.md R281 to R283; 45_ecdsa.md R244). -/
inductive CommandEnd (s : State) : List Part → State → Prop
  | completed {parts : List Part} {u : State} (h : CommandWrites s parts u) : CommandEnd s parts u.complete
  | raised {parts : List Part} (e : CommandError) : CommandEnd s parts (s.raise e)
  | signed (after : EntropySource) (bs : List Byte) (hlen : bs.length = 64) :
      CommandEnd s [.mem, .env] ((s.setEntropy after).writeBuffer sigBase bs).complete
  | entropyFailed (after : EntropySource) : CommandEnd s [.mem, .env] ((s.setEntropy after).raise .entropyUnavailable)
  | pending (after : EntropySource) : CommandEnd s [.mem, .env] (s.setEntropy after)

/-- A command that concludes its pseudocode has an end, if all the pseudocode leaves is among its writes. -/
theorem commandEnd_of_conclude {s t : State} {parts : List Part} {c : Checked State}
    (hwrites : ∀ u, c = .ok u → CommandWrites s parts u) (h : s.conclude c = .next t) : CommandEnd s parts t := by
  rcases conclude_next s t c h with ⟨u, hu, rfl⟩ | ⟨e, -, rfl⟩
  · exact .completed (hwrites u hu)
  · exact .raised e

variable {s t : State}

theorem modBinary_end {m : Modulus} {rd ra rb : Sel} {f : Nat → Nat → Nat}
    (h : modBinary m rd ra rb s f = .next t) : CommandEnd s [.w] t := by
  refine commandEnd_of_conclude (fun u hu => ?_) h
  simp only [checked_bind_ok, Except.ok.injEq] at hu
  obtain ⟨d, -, i, -, j, -, a, -, b, -, rfl⟩ := hu
  exact .register d _

theorem modUnary_end {m : Modulus} {rd ra : Sel} {f : Nat → Checked Nat}
    (h : modUnary m rd ra s f = .next t) : CommandEnd s [.w] t := by
  refine commandEnd_of_conclude (fun u hu => ?_) h
  simp only [checked_bind_ok, Except.ok.injEq] at hu
  obtain ⟨d, -, i, -, a, -, r, -, rfl⟩ := hu
  exact .register d _

theorem execFeq_end {m : Modulus} {ra rb : Sel} (h : execFeq m ra rb s = .next t) : CommandEnd s [.flags] t := by
  refine commandEnd_of_conclude (fun u hu => ?_) h
  simp only [checked_bind_ok, Except.ok.injEq] at hu
  obtain ⟨i, -, j, -, a, -, b, -, rfl⟩ := hu
  exact .eqFlag _

theorem execMulw_end {ra rb : Sel} (h : execMulw ra rb s = .next t) : CommandEnd s [.acc] t := by
  refine commandEnd_of_conclude (fun u hu => ?_) h
  simp only [checked_bind_ok, Except.ok.injEq] at hu
  obtain ⟨i, -, j, -, rfl⟩ := hu
  exact .accumulator _

theorem execBred_end {m : Modulus} {rd : Sel} (h : execBred m rd s = .next t) : CommandEnd s [.w] t := by
  refine commandEnd_of_conclude (fun u hu => ?_) h
  simp only [checked_bind_ok, Except.ok.injEq] at hu
  obtain ⟨d, -, rfl⟩ := hu
  exact .register d _

theorem execPadd_end {rd ra rb : Sel} (h : execPadd rd ra rb s = .next t) : CommandEnd s [.pt, .flags] t := by
  refine commandEnd_of_conclude (fun u hu => ?_) h
  simp only [checked_bind_ok, Except.ok.injEq] at hu
  obtain ⟨d, -, i, -, j, -, p, -, q, -, rfl⟩ := hu
  exact .point d _

theorem execPdbl_end {rd ra : Sel} (h : execPdbl rd ra s = .next t) : CommandEnd s [.pt, .flags] t := by
  refine commandEnd_of_conclude (fun u hu => ?_) h
  simp only [checked_bind_ok, Except.ok.injEq] at hu
  obtain ⟨d, -, i, -, p, -, rfl⟩ := hu
  exact .point d _

theorem execPmul_end {rd ra rb : Sel} (h : execPmul rd ra rb s = .next t) : CommandEnd s [.pt, .flags] t := by
  refine commandEnd_of_conclude (fun u hu => ?_) h
  simp only [checked_bind_ok, Except.ok.injEq] at hu
  obtain ⟨d, -, i, -, j, -, p, -, rfl⟩ := hu
  exact .point d _

theorem execPchk_end {ra : Sel} (h : execPchk ra s = .next t) : CommandEnd s [] t := by
  refine commandEnd_of_conclude (fun u hu => ?_) h
  simp only [checked_bind_ok, Except.ok.injEq] at hu
  obtain ⟨i, -, -, -, -, -, rfl⟩ := hu
  exact .nothing

theorem execPldg_end {rd : Sel} (h : execPldg rd s = .next t) : CommandEnd s [.pt, .flags] t := by
  refine commandEnd_of_conclude (fun u hu => ?_) h
  simp only [checked_bind_ok, Except.ok.injEq] at hu
  obtain ⟨d, -, rfl⟩ := hu
  exact .point d _

theorem execImppriv_end {rd : Sel} {len : Byte} (h : execImppriv rd len s = .next t) : CommandEnd s [.ks] t := by
  refine commandEnd_of_conclude (fun u hu => ?_) h
  simp only [checked_bind_ok, Except.ok.injEq] at hu
  obtain ⟨i, -, -, -, ⟨⟩, hrange, rfl⟩ := hu
  obtain ⟨hzero, hlt⟩ := not_or.mp ((raiseIf_ok _ _).mp hrange)
  exact .importedScalar i _ (Nat.pos_of_ne_zero hzero) (Nat.lt_of_not_le hlt)

theorem execImppub_end {rd : Sel} {len : Byte} (h : execImppub rd len s = .next t) : CommandEnd s [.kp] t := by
  refine commandEnd_of_conclude (fun u hu => ?_) h
  simp only [checked_bind_ok, Except.ok.injEq] at hu
  obtain ⟨j, -, -, -, -, -, ⟨⟩, hvalid, rfl⟩ := hu
  exact .importedPoint j _ _ ((validated_ok _ _).mp hvalid)

theorem execExppriv_end {ra : Sel} (h : execExppriv ra s = .next t) : CommandEnd s [.mem] t := by
  refine commandEnd_of_conclude (fun u hu => ?_) h
  simp only [checked_bind_ok, Except.ok.injEq] at hu
  obtain ⟨i, -, d, -, rfl⟩ := hu
  exact .exported _ (by simp [privEncoding])

theorem execExppub_end {ra : Sel} (h : execExppub ra s = .next t) : CommandEnd s [.mem] t := by
  refine commandEnd_of_conclude (fun u hu => ?_) h
  simp only [checked_bind_ok, Except.ok.injEq] at hu
  obtain ⟨j, -, q, -, rfl⟩ := hu
  exact .exported _ (by simp [pubEncoding])

theorem execDerive_end {rd ra : Sel} (h : execDerive rd ra s = .next t) : CommandEnd s [.kp] t := by
  refine commandEnd_of_conclude (fun u hu => ?_) h
  simp only [checked_bind_ok, Except.ok.injEq, privOperand_ok] at hu
  obtain ⟨j, -, i, -, _, ⟨hvalid, rfl⟩, rfl⟩ := hu
  exact .derivedPoint j i hvalid

theorem execDispose_end {rd : Sel} (h : execDispose rd s = .next t) : CommandEnd s [.ks] t := by
  refine commandEnd_of_conclude (fun u hu => ?_) h
  simp only [checked_bind_ok, Except.ok.injEq] at hu
  obtain ⟨i, -, rfl⟩ := hu
  exact .disposedSlot i

theorem execVerify_end {ra : Sel} {len : Byte} (h : execVerify ra len s = .next t) : CommandEnd s [.flags] t := by
  refine commandEnd_of_conclude (fun u hu => ?_) h
  simp only [checked_bind_ok, Except.ok.injEq] at hu
  obtain ⟨j, -, q, -, -, -, -, -, rfl⟩ := hu
  exact .okFlag _

theorem execNop_end (h : execNop s = .next t) : CommandEnd s [] t := by
  refine commandEnd_of_conclude (fun u hu => ?_) h
  obtain rfl := Except.ok.inj hu
  exact .nothing

theorem concludeSign_end {r : SignSearch} (h : s.concludeSign r = .next t) : CommandEnd s [.mem, .env] t := by
  cases r <;> obtain rfl := Host.Outcome.next.inj h
  case signed r v after => exact .signed after _ (by simp [sigEncoding])
  case entropyFailed after => exact .entropyFailed after
  case waiting after => exact .pending after
  case unending => exact .pending s.env.entropy

theorem execSign_end {ra : Sel} (h : execSign ra s = .next t) : CommandEnd s [.mem, .env] t := by
  unfold execSign signWith at h
  split at h
  · obtain rfl := Host.Outcome.next.inj h
    exact .raised _
  · exact concludeSign_end h

/-- Every command ends in one of the ends that the parts it writes allow (60_exceptions.md R281). -/
theorem exec_end {i : Instr} (h : exec i s = .next t) : CommandEnd s (partsWritten i) t := by
  cases i with
  | nop => exact execNop_end h
  | fadd => exact modBinary_end h
  | fsub => exact modBinary_end h
  | fmul => exact modBinary_end h
  | finv => exact modUnary_end h
  | feq => exact execFeq_end h
  | mulw => exact execMulw_end h
  | bred => exact execBred_end h
  | mmul => exact modBinary_end h
  | mtom => exact modUnary_end h
  | mfrom => exact modUnary_end h
  | padd => exact execPadd_end h
  | pdbl => exact execPdbl_end h
  | pmul => exact execPmul_end h
  | pchk => exact execPchk_end h
  | pldg => exact execPldg_end h
  | imppriv => exact execImppriv_end h
  | imppub => exact execImppub_end h
  | exppriv => exact execExppriv_end h
  | exppub => exact execExppub_end h
  | derive => exact execDerive_end h
  | dispose => exact execDispose_end h
  | sign => exact execSign_end h
  | verify => exact execVerify_end h

end CommandEnds

end Sys2Proof.Machine

/-! PROOF. The frame of every command, the reset state, and the induction over the turns of a step (O10, O58). -/

namespace Sys2Proof.Machine

section PartsWritten

variable {s t u : State} {parts : List Part}

theorem keeps_setEq (s : State) (b : Bool) : Keeps s (s.setEq b) [.flags] := by
  intro q hq
  cases q <;> simp_all [Part.same]

theorem keeps_setOk (s : State) (b : Bool) : Keeps s (s.setOk b) [.flags] := by
  intro q hq
  cases q <;> simp_all [Part.same]

theorem keeps_setEntropy (s : State) (e : EntropySource) : Keeps s (s.setEntropy e) [.env] := by
  intro q hq
  cases q <;> simp_all [Part.same]

theorem keeps_raise (s : State) (e : CommandError) : Keeps s (s.raise e) [] := by
  intro q _
  cases q <;> simp [Part.same]

theorem Part.same_trans {q : Part} (h1 : q.same s t) (h2 : q.same t u) : q.same s u := by
  cases q <;> simp_all [Part.same]

/-- What two changes in a row keep. -/
theorem keeps_trans {l k : List Part} (h1 : Keeps s t l) (h2 : Keeps t u k) : Keeps s u (k ++ l) := fun q hq =>
  Part.same_trans (h1 q fun hm => hq (List.mem_append_right k hm)) (h2 q fun hm => hq (List.mem_append_left l hm))

/-- The writes of a command keep every part that is not among its own. -/
theorem CommandWrites.keeps (h : CommandWrites s parts u) : Keeps s u parts := by
  cases h with
  | nothing => exact keeps_refl s []
  | register d v => exact keeps_writeW s d v
  | accumulator v => exact keeps_writeAcc s v
  | eqFlag b => exact keeps_setEq s b
  | okFlag b => exact keeps_setOk s b
  | point d q => exact keeps_pointResult s d q
  | importedScalar i => exact keeps_writeKs s i _
  | disposedSlot i => exact keeps_writeKs s i _
  | importedPoint j => exact keeps_writeKp s j _
  | derivedPoint j i => exact keeps_writeKp s j _
  | exported bs => exact keeps_writeBuffer s keyBase bs

/-- However a command ends, it keeps every part that is not among its own. -/
theorem CommandEnd.keeps (h : CommandEnd s parts t) : Keeps s t parts := by
  cases h with
  | completed hw => exact keeps_complete s _ parts hw.keeps
  | raised e => exact keeps_mono s _ [] parts (keeps_raise s e) (List.nil_subset _)
  | signed after bs => exact keeps_complete s _ _ (keeps_trans (keeps_setEntropy s after) (keeps_writeBuffer _ _ _))
  | entropyFailed after =>
    exact keeps_mono s _ [.env] _ (keeps_trans (keeps_setEntropy s after) (keeps_raise _ _)) (List.subset_cons_self _ _)
  | pending after => exact keeps_mono s _ [.env] _ (keeps_setEntropy s after) (List.subset_cons_self _ _)

/-- Settles O10: every end of a command keeps the parts outside its list. -/
theorem commandsWriteOnlyTheirParts : Obligations.CommandsWriteOnlyTheirParts :=
  fun _ _ _ h => (exec_end h).keeps

end PartsWritten

section ResetState

theorem reset_inv : State.reset.Inv where
  memCanonical := ⟨List.Pairwise.nil, by simp [State.reset]⟩
  privValid := by simp [State.reset]
  privEmpty := by simp [State.reset]
  pubEmpty := by simp [State.reset]
  busyClear := by simp [State.reset]
  errCoded := by simp [State.reset]
  knownCode := .inl rfl
  failedClear := fun _ => rfl
  oneFlag := ⟨rfl, rfl, rfl⟩

theorem reset_pubSound : State.reset.PubSound := by
  intro j h
  simp [State.reset] at h

/-- Settles O58: the reset table meets each clause, and no public slot is valid. -/
theorem resetSatisfiesTheInvariant : Obligations.ResetSatisfiesTheInvariant := ⟨reset_inv, reset_pubSound⟩

end ResetState

section StepInduction

/-- A property that every turn keeps, whatever turns are left, is kept by every step. -/
theorem step_keeps {P : State → Prop} (hagenda : ∀ s turns, P s → P (s.setAgenda turns))
    (hhost : ∀ s a, P s → P (s.hostAccess a)) (hengine : ∀ s t, P s → engineTurn s = .next t → P t)
    (hentropy : ∀ s a, P s → P (s.supplyEntropy a)) (hreset : ∀ s, P s → P s.resetCore)
    {s t : State} (hs : P s) (h : step s = .next t) : P t := by
  cases hturns : s.env.agenda with
  | nil => exact hengine s t hs (step_engine s hturns ▸ h)
  | cons turn rest =>
    rw [step_turn s turn rest hturns] at h
    have hs' := hagenda s rest hs
    cases turn with
    | host a => obtain rfl := Host.Outcome.next.inj h; exact hhost _ a hs'
    | engine => exact hengine _ t hs' h
    | entropySource a => obtain rfl := Host.Outcome.next.inj h; exact hentropy _ a hs'
    | hardwareReset => obtain rfl := Host.Outcome.next.inj h; exact hreset _ hs'

/-- The engine's turn leaves an idle core, ends the latched command, or reports an illegal word
(60_exceptions.md R281). -/
theorem engineTurn_end {s t : State} (h : engineTurn s = .next t) :
    t = s ∨ (s.seq = .busy ∧ ∃ parts, CommandEnd s parts t) := by
  rcases engineTurn_cases s with ⟨-, he⟩ | ⟨i, hbusy, -, he⟩ | ⟨c, hbusy, -, he⟩
  · exact .inl (Host.Outcome.next.inj (h.symm.trans he))
  · exact .inr ⟨hbusy, _, exec_end (he ▸ h)⟩
  · obtain rfl := Host.Outcome.next.inj (h.symm.trans he)
    exact .inr ⟨hbusy, [], .raised _⟩

end StepInduction

end Sys2Proof.Machine

/-! PROOF. The window map is one to one where it is writable; a byte written is read back and no other byte changes. -/

namespace Sys2Proof.Machine

section WindowMap

/-- The offsets of the writable byte regions (20_memory.md R62, R64). -/
abbrev writableByte (o : Nat) : Prop :=
  (0x040 ≤ o ∧ o < 0x0A0) ∨ (0x0C0 ≤ o ∧ o < 0x144) ∨ (0x200 ≤ o ∧ o < 0x400)

/-- Which offset a stored byte has: the home gives it back, and one that stores nothing has none that is writable. -/
def ByteHome.At : ByteHome → Nat → Prop
  | .acc i, o => i < 64 ∧ o = 0x040 + i
  | .buffer a, o => a = o ∧ inBuffer o
  | .w r i, o => i < 32 ∧ o = 0x200 + 0x20 * r + i
  | .ptX j i, o => i < 32 ∧ o = 0x300 + 0x40 * j + i
  | .ptY j i, o => i < 32 ∧ o = 0x320 + 0x40 * j + i
  | .const _ _, o => ¬writableByte o
  | .none, o => ¬writableByte o

/-- The window map and its inverse agree (20_memory.md R62). -/
theorem byteHome_at (o : Nat) : (byteHome o).At o := by
  fun_cases byteHome o <;> simp only [ByteHome.At, Fin.ofNat, inBuffer, writableByte, true_and] <;> omega

end WindowMap

section RegisterBytes

/-- Bits `n - 8 - 8 * i` upward of a register with byte `i` replaced are the byte's; every other bit stays. -/
theorem getLsbD_setBeByte {n : Nat} (v : BitVec n) (i m : Nat) (b : Byte) (hm : m < n) :
    (setBeByte v i b).getLsbD m =
      if n - 8 - 8 * i ≤ m ∧ m < n - 8 - 8 * i + 8 then b.getLsbD (m - (n - 8 - 8 * i)) else v.getLsbD m := by
  have hmask : ∀ l, (0xFF#8).getLsbD l = decide (l < 8) := fun l => BitVec.getLsbD_allOnes
  simp only [setBeByte, BitVec.getLsbD_or, BitVec.getLsbD_and, BitVec.getLsbD_not, BitVec.getLsbD_shiftLeft,
    BitVec.getLsbD_setWidth, hmask, hm, decide_true, Bool.true_and]
  by_cases hlo : m < n - 8 - 8 * i
  · simp [hlo]
    omega
  · by_cases hhi : m < n - 8 - 8 * i + 8
    · have : m - (n - 8 - 8 * i) < n := by omega
      have h8 : m - (n - 8 - 8 * i) < 8 := by omega
      simp [hlo, hhi, this, h8]
      omega
    · have h8 : 8 ≤ m - (n - 8 - 8 * i) := by omega
      simp [hlo, hhi, h8]

/-- A byte put into a register is read back, and every other byte stays (20_memory.md R65). -/
theorem beByte_setBeByte {n : Nat} (v : BitVec n) {i j : Nat} (b : Byte) (hi : 8 * i + 8 ≤ n) (hj : 8 * j + 8 ≤ n) :
    beByte (setBeByte v i b) j = if j = i then b else beByte v j := by
  ext k hk
  have hbit : (beByte (setBeByte v i b) j)[k] = (setBeByte v i b).getLsbD (n - 8 - 8 * j + k) := by
    simp [beByte, BitVec.getElem_extractLsb']
  rw [hbit, getLsbD_setBeByte v i _ b (by omega)]
  by_cases hij : j = i
  · subst hij
    simp [hk]
  · have : ¬(n - 8 - 8 * i ≤ n - 8 - 8 * j + k ∧ n - 8 - 8 * j + k < n - 8 - 8 * i + 8) := by omega
    rw [if_neg this, if_neg hij]
    simp [beByte, BitVec.getElem_extractLsb']

/-- The four lanes of a word make up the word (20_memory.md R66). -/
theorem lanes_laneByte (v : Word32) : lanes (laneByte v 0) (laneByte v 1) (laneByte v 2) (laneByte v 3) = v := by
  have h3 : laneByte v 3 ++ laneByte v 2 = v.extractLsb' 16 16 :=
    BitVec.extractLsb'_append_extractLsb'_eq_extractLsb' rfl
  have h2 : v.extractLsb' 16 16 ++ laneByte v 1 = v.extractLsb' 8 24 :=
    BitVec.extractLsb'_append_extractLsb'_eq_extractLsb' rfl
  have h1 : v.extractLsb' 8 24 ++ laneByte v 0 = v.extractLsb' 0 32 :=
    BitVec.extractLsb'_append_extractLsb'_eq_extractLsb' rfl
  rw [lanes, h3, h2, h1, BitVec.extractLsb'_eq_self]

end RegisterBytes

section WindowBytes

variable {s : State} {o a : Nat} {b : Byte}

/-- A byte write keeps the canonical form of the buffers. -/
theorem writeWindowByte_wf (o : Nat) (b : Byte) (h : Memory.wf s.mem) : Memory.wf (s.writeWindowByte o b).mem := by
  have hat := byteHome_at o
  unfold State.writeWindowByte
  cases hhome : byteHome o with
  | buffer a =>
    rw [hhome] at hat
    obtain ⟨rfl, hin⟩ := hat
    exact Memory.wf_write s.mem a b hin h
  | acc i => exact h
  | w r i => exact h
  | ptX j i => exact h
  | ptY j i => exact h
  | const v i => exact h
  | none => exact h

/-- A byte written to a writable region is read back (20_memory.md R64). -/
theorem windowByte_writeWindowByte_same (h : Memory.wf s.mem) (ho : writableByte o) :
    (s.writeWindowByte o b).windowByte o = b := by
  have hat := byteHome_at o
  unfold State.windowByte State.writeWindowByte
  cases hhome : byteHome o <;> rw [hhome] at hat
  case acc i => simp [beByte_setBeByte, show 8 * i + 8 ≤ 512 by have := hat.1; omega]
  case buffer a => exact Memory.read_write_same s.mem a b h.1
  case w r i => simp [beByte_setBeByte, show 8 * i + 8 ≤ 256 by have := hat.1; omega]
  case ptX j i => simp [beByte_setBeByte, show 8 * i + 8 ≤ 256 by have := hat.1; omega]
  case ptY j i => simp [beByte_setBeByte, show 8 * i + 8 ≤ 256 by have := hat.1; omega]
  case const v i => exact absurd ho hat
  case none => exact absurd ho hat

/-- Reading a bank of registers after a write to one of them. -/
theorem bank_get_set {α : Type} {k : Nat} (bank : Vector α k) (r q : Fin k) (v : α) :
    (bank.set r v)[q] = if q = r then v else bank[q] := by
  simp [Vector.getElem_set, Fin.ext_iff, eq_comm]

/-- Putting a byte into one register of a bank is seen in that byte alone. -/
theorem beByte_get_set {α : Type} {k : Nat} (bank : Vector α k) (f : α → Word256) {r q : Fin k} {v : α} {i l : Nat}
    (b : Byte) (hv : f v = setBeByte (f bank[r]) i b) (hi : i < 32) (hl : l < 32) (hne : q ≠ r ∨ l ≠ i) :
    beByte (f (bank.set r v)[q]) l = beByte (f bank[q]) l := by
  rw [bank_get_set]
  split
  · rename_i hq
    subst hq
    rw [hv, beByte_setBeByte _ b (by omega) (by omega), if_neg (hne.resolve_left (by simp))]
  · rfl

/-- A byte write changes no byte at another offset (20_memory.md R64). -/
theorem windowByte_writeWindowByte_ne (h : Memory.wf s.mem) (hne : a ≠ o) :
    (s.writeWindowByte o b).windowByte a = s.windowByte a := by
  have hatO := byteHome_at o
  have hatA := byteHome_at a
  unfold State.windowByte State.writeWindowByte
  cases hO : byteHome o <;> rw [hO] at hatO
  case acc i =>
    cases hA : byteHome a with
    | acc l =>
      simp only [hA, ByteHome.At] at hatO hatA
      simp [beByte_setBeByte, show 8 * i + 8 ≤ 512 by omega, show 8 * l + 8 ≤ 512 by omega, show l ≠ i by omega]
    | _ => rfl
  case buffer o' =>
    cases hA : byteHome a with
    | buffer a' =>
      simp only [hA, ByteHome.At] at hatO hatA
      exact Memory.read_write_ne s.mem o' a' b (by omega) h.1
    | _ => rfl
  case w r i =>
    cases hA : byteHome a with
    | w q l =>
      simp only [hA, ByteHome.At] at hatO hatA
      exact beByte_get_set s.w id b rfl hatO.1 hatA.1 (by omega)
    | _ => rfl
  case ptX j i =>
    cases hA : byteHome a with
    | ptX q l =>
      simp only [hA, ByteHome.At] at hatO hatA
      exact beByte_get_set s.pt PointReg.x b rfl hatO.1 hatA.1 (by omega)
    | ptY q l => simp only [bank_get_set]; split <;> simp_all
    | _ => rfl
  case ptY j i =>
    cases hA : byteHome a with
    | ptX q l => simp only [bank_get_set]; split <;> simp_all
    | ptY q l =>
      simp only [hA, ByteHome.At] at hatO hatA
      exact beByte_get_set s.pt PointReg.y b rfl hatO.1 hatA.1 (by omega)
    | _ => rfl

end WindowBytes

end Sys2Proof.Machine

/-! PROOF. Words of the data window and of the constants (O49, O51). -/

namespace Sys2Proof.Machine

section WordAccess

variable {s : State} {off a : Nat} {v : Word32}

@[simp] theorem State.writeLanes_ks : (s.writeLanes off v).ks = s.ks := by simp [State.writeLanes]
@[simp] theorem State.writeLanes_kp : (s.writeLanes off v).kp = s.kp := by simp [State.writeLanes]
@[simp] theorem State.writeLanes_seq : (s.writeLanes off v).seq = s.seq := by simp [State.writeLanes]
@[simp] theorem State.writeLanes_cmdLatch : (s.writeLanes off v).cmdLatch = s.cmdLatch := by simp [State.writeLanes]
@[simp] theorem State.writeLanes_status : (s.writeLanes off v).status = s.status := by simp [State.writeLanes]
@[simp] theorem State.writeLanes_flags : (s.writeLanes off v).flags = s.flags := by simp [State.writeLanes]
@[simp] theorem State.writeLanes_nonceMode : (s.writeLanes off v).nonceMode = s.nonceMode := by
  simp [State.writeLanes]
@[simp] theorem State.writeLanes_inten : (s.writeLanes off v).inten = s.inten := by simp [State.writeLanes]
@[simp] theorem State.writeLanes_env : (s.writeLanes off v).env = s.env := by simp [State.writeLanes]
@[simp] theorem State.writeLanes_inf (j : Fin 4) : (s.writeLanes off v).pt[j].inf = s.pt[j].inf := by
  simp only [State.writeLanes, State.writeWindowByte_inf]

/-- A word write changes nothing but data registers and buffers (20_memory.md R64). -/
theorem keeps_writeLanes (s : State) (off : Nat) (v : Word32) :
    Keeps s (s.writeLanes off v) [.w, .acc, .pt, .mem] := by
  intro q hq
  cases q <;> simp_all [Part.same]

theorem writeLanes_wf (off : Nat) (v : Word32) (h : Memory.wf s.mem) : Memory.wf (s.writeLanes off v).mem :=
  writeWindowByte_wf _ _ (writeWindowByte_wf _ _ (writeWindowByte_wf _ _ (writeWindowByte_wf _ _ h)))

/-- A word write leaves every byte outside its four (20_memory.md R64). -/
theorem windowByte_writeLanes_outside (h : Memory.wf s.mem) (ha : a < off ∨ off + 4 ≤ a) :
    (s.writeLanes off v).windowByte a = s.windowByte a := by
  have h0 := writeWindowByte_wf off (laneByte v 0) h
  have h1 := writeWindowByte_wf (off + 1) (laneByte v 1) h0
  have h2 := writeWindowByte_wf (off + 2) (laneByte v 2) h1
  rw [State.writeLanes, windowByte_writeWindowByte_ne h2 (by omega), windowByte_writeWindowByte_ne h1 (by omega),
    windowByte_writeWindowByte_ne h0 (by omega), windowByte_writeWindowByte_ne h (by omega)]

/-- After a word write to a writable region each byte of the word holds its lane (20_memory.md R66). -/
theorem windowByte_writeLanes (h : Memory.wf s.mem) (hoff : writableWord off) :
    let t := s.writeLanes off v
    t.windowByte off = laneByte v 0 ∧ t.windowByte (off + 1) = laneByte v 1 ∧
    t.windowByte (off + 2) = laneByte v 2 ∧ t.windowByte (off + 3) = laneByte v 3 := by
  have h0 := writeWindowByte_wf off (laneByte v 0) h
  have h1 := writeWindowByte_wf (off + 1) (laneByte v 1) h0
  have h2 := writeWindowByte_wf (off + 2) (laneByte v 2) h1
  have hwritable : ∀ k < 4, writableByte (off + k) := fun k hk => by omega
  refine ⟨?_, ?_, ?_, ?_⟩
  · rw [State.writeLanes, windowByte_writeWindowByte_ne h2 (by omega), windowByte_writeWindowByte_ne h1 (by omega),
      windowByte_writeWindowByte_ne h0 (by omega), windowByte_writeWindowByte_same h (show writableByte off by omega)]
  · rw [State.writeLanes, windowByte_writeWindowByte_ne h2 (by omega), windowByte_writeWindowByte_ne h1 (by omega),
      windowByte_writeWindowByte_same h0 (hwritable 1 (by omega))]
  · rw [State.writeLanes, windowByte_writeWindowByte_ne h2 (by omega),
      windowByte_writeWindowByte_same h1 (hwritable 2 (by omega))]
  · rw [State.writeLanes, windowByte_writeWindowByte_same h2 (hwritable 3 (by omega))]

/-- On an idle core a write to a writable byte region is its four byte writes (20_memory.md R64). -/
theorem memWrite_data (hidle : s.seq = .idle) (hoff : writableWord off) : s.memWrite off v = s.writeLanes off v := by
  rcases memWrite_cases s off v with ⟨h, -⟩ | ⟨-, hbusy, -⟩ | ⟨-, -, h | h | h | h | h | h⟩
  · omega
  · simp [hidle] at hbusy
  · omega
  · omega
  · omega
  · omega
  · omega
  · exact h.2.2.2.2.2

/-- On an idle core a read of anything but a control register answers the four bytes (20_memory.md R66). -/
theorem memRead_bytes (hidle : s.seq = .idle) (hlow : 0x040 ≤ off) (hptinf : off ≠ 0x400) :
    s.memRead off =
      lanes (s.windowByte off) (s.windowByte (off + 1)) (s.windowByte (off + 2)) (s.windowByte (off + 3)) := by
  have hcontrol : s.controlWord off = none := by
    unfold State.controlWord
    repeat rw [if_neg (by omega)]
  simp [State.memRead, State.busy, hidle, hcontrol]

end WordAccess

section DataWindow

/-- A byte of a register, by the power of 256 that its place in the string has (20_memory.md R65). -/
theorem beByte_eq_div {n k i : Nat} (x : BitVec n) (hn : n = 8 * k) (hi : i < k) :
    beByte x i = BitVec.ofNat 8 (x.toNat / 256 ^ (k - 1 - i)) := by
  rw [beByte_eq, show (256 : Nat) = 2 ^ 8 from rfl, ← Nat.pow_mul, show n - 8 - 8 * i = 8 * (k - 1 - i) by omega]

/-- Settles O49: the map places each register's bytes, and a data write is four byte writes at offsets of their own. -/
theorem writtenWordReadsBack : Obligations.WrittenWordReadsBack := by
  intro s
  refine ⟨fun i k => ?_, fun k => ?_, fun j k => ⟨?_, ?_⟩, fun k => ?_, fun k => ?_, fun k => ?_, ?_⟩
  · rw [State.windowByte, byteHome_w]
    exact beByte_eq_div s.w[i] rfl k.isLt
  · rw [State.windowByte, byteHome_acc]
    exact beByte_eq_div s.acc rfl k.isLt
  · rw [State.windowByte, byteHome_ptX]
    exact beByte_eq_div s.pt[j].x rfl k.isLt
  · rw [State.windowByte, byteHome_ptY]
    exact beByte_eq_div s.pt[j].y rfl k.isLt
  · rw [State.windowByte, byteHome_buffer _ (.inl (by omega))]
    rfl
  · rw [State.windowByte, byteHome_buffer _ (.inr (by omega))]
    rfl
  · rw [State.windowByte, byteHome_buffer _ (.inr (by omega))]
    rfl
  · intro off v hwf hidle hoff
    simp only [memWrite_data hidle hoff]
    obtain ⟨hb0, hb1, hb2, hb3⟩ := windowByte_writeLanes (v := v) hwf hoff
    refine ⟨?_, fun o ho => windowByte_writeLanes_outside hwf ho, State.writeLanes_inf, State.writeLanes_seq,
      State.writeLanes_status, keeps_writeLanes s off v⟩
    rw [memRead_bytes (by rwa [State.writeLanes_seq]) (by omega) (by omega), hb0, hb1, hb2, hb3, lanes_laneByte]

/-- The map of the read-only constants (20_memory.md R62). -/
theorem byteHome_const (c : Fin 6) (k : Fin 32) :
    byteHome (0x800 + 0x20 * c + k) = .const (BitVec.ofNat 256 (curveConstant c)) k := by
  revert c k
  decide

/-- The constants by their places in the list of 10_state.md R40; each is below `2^256`. -/
theorem curveConstant_eq (c : Fin 6) :
    [Config.p, Config.n, Config.a, Config.b, Config.gx, Config.gy].getD c 0 = curveConstant c ∧
    curveConstant c < 2 ^ 256 := by
  revert c
  decide

/-- Each byte of a constant reads as its byte of the number in every state (10_state.md R41). -/
theorem windowByte_const (s : State) (c : Fin 6) (k : Fin 32) :
    s.windowByte (0x800 + 0x20 * c + k) =
      BitVec.ofNat 8 ([Config.p, Config.n, Config.a, Config.b, Config.gx, Config.gy].getD c 0 / 256 ^ (31 - k.val)) := by
  obtain ⟨hlist, hlt⟩ := curveConstant_eq c
  rw [State.windowByte, byteHome_const, hlist]
  dsimp only
  rw [beByte_eq_div _ rfl k.isLt, BitVec.toNat_ofNat, Nat.mod_eq_of_lt hlt]

/-- Settles O51: a word of the constants is four of their bytes. -/
theorem constantsReadTheirValues : Obligations.ConstantsReadTheirValues := by
  intro s c k hidle
  have hbyte : ∀ i (hi : i < 4), s.windowByte (0x800 + 0x20 * c + 4 * k + i) = BitVec.ofNat 8
      ([Config.p, Config.n, Config.a, Config.b, Config.gx, Config.gy].getD c 0 / 256 ^ (31 - (4 * k.val + i))) :=
    fun i hi => by rw [Nat.add_assoc]; exact windowByte_const s c ⟨4 * k.val + i, by omega⟩
  have hbyte0 := hbyte 0 (by omega)
  rw [Nat.add_zero] at hbyte0
  rw [memRead_bytes hidle (by omega) (by omega), lanes, hbyte0, hbyte 1 (by omega), hbyte 2 (by omega),
    hbyte 3 (by omega)]

end DataWindow

end Sys2Proof.Machine

/-! PROOF. The invariant of the machine and the soundness of the public key slots are kept by every step (O59, O60). -/

namespace Sys2Proof.Machine

section Invariant

variable {s t u : State} {parts : List Part}

/-- The clauses of the invariant on what the core stores: buffers and key slots. -/
structure State.StoreInv (s : State) : Prop where
  memCanonical : Memory.wf s.mem
  privValid : ∀ i : Fin 4, s.ks[i].valid = true → 0 < s.ks[i].d.toNat ∧ s.ks[i].d.toNat < Config.n
  privEmpty : ∀ i : Fin 4, s.ks[i].valid = false → s.ks[i].d = 0#256
  pubEmpty : ∀ j : Fin 4, s.kp[j].valid = false → s.kp[j].x = 0#256 ∧ s.kp[j].y = 0#256

/-- At most one flag is set. -/
abbrev Flags.AtMostOne (f : Flags) : Prop := (f.eq && f.inf) = false ∧ (f.eq && f.ok) = false ∧ (f.inf && f.ok) = false

/-- The clauses of the invariant on how the last command ended: sequencer, `STATUS` and `FLAGS`. -/
structure State.OutcomeInv (s : State) : Prop where
  busyClear : s.seq = .busy →
    s.status.done = false ∧ s.status.err = false ∧ s.status.errcode = 0#8 ∧ s.flags = flagsClear
  errCoded : s.status.err = true → s.status.errcode ≠ 0#8
  knownCode : s.status.errcode = 0#8 ∨ ∃ e : CommandError, s.status.errcode = e.code
  failedClear : s.status.errcode ≠ 0#8 → s.flags = flagsClear
  oneFlag : s.flags.AtMostOne

/-- The invariant is its clauses on the store and those on the outcome. -/
theorem inv_iff : s.Inv ↔ s.StoreInv ∧ s.OutcomeInv :=
  ⟨fun h => ⟨⟨h.memCanonical, h.privValid, h.privEmpty, h.pubEmpty⟩,
      ⟨h.busyClear, h.errCoded, h.knownCode, h.failedClear, h.oneFlag⟩⟩,
    fun ⟨hs, ho⟩ => ⟨hs.memCanonical, hs.privValid, hs.privEmpty, hs.pubEmpty, ho.busyClear, ho.errCoded, ho.knownCode,
      ho.failedClear, ho.oneFlag⟩⟩

section Store

/-- The store clauses speak of buffers and key slots alone. -/
theorem State.StoreInv.congr (h : s.StoreInv) (hmem : t.mem = s.mem) (hks : t.ks = s.ks) (hkp : t.kp = s.kp) :
    t.StoreInv := by
  obtain ⟨hcanonical, hvalid, hempty, hpub⟩ := h
  exact ⟨hmem ▸ hcanonical, hks ▸ hvalid, hks ▸ hempty, hkp ▸ hpub⟩

/-- A buffer write keeps the store clauses if it stays inside the buffers. -/
theorem State.StoreInv.writeBuffer (h : s.StoreInv) {base : Nat} {bs : List Byte}
    (hin : ∀ i < bs.length, inBuffer (base + i)) : (s.writeBuffer base bs).StoreInv :=
  { h with memCanonical := Memory.wf_writeBytes s.mem base bs h.memCanonical hin }

/-- A write of a slot of `ks` keeps the store clauses if the content meets them. -/
theorem State.StoreInv.writeKs (h : s.StoreInv) (i : Fin 4) {k : PrivSlot}
    (hvalid : k.valid = true → 0 < k.d.toNat ∧ k.d.toNat < Config.n) (hempty : k.valid = false → k.d = 0#256) :
    (s.writeKs i k).StoreInv where
  memCanonical := h.memCanonical
  privValid j := by
    rw [State.writeKs_ks, bank_get_set]
    split
    · exact hvalid
    · exact h.privValid j
  privEmpty j := by
    rw [State.writeKs_ks, bank_get_set]
    split
    · exact hempty
    · exact h.privEmpty j
  pubEmpty := h.pubEmpty

/-- Filling a slot of `kp` keeps the store clauses. -/
theorem State.StoreInv.writeKp (h : s.StoreInv) (j : Fin 4) {k : PubSlot} (hvalid : k.valid = true) :
    (s.writeKp j k).StoreInv where
  memCanonical := h.memCanonical
  privValid := h.privValid
  privEmpty := h.privEmpty
  pubEmpty i := by
    rw [State.writeKp_kp, bank_get_set]
    split
    · simp [hvalid]
    · exact h.pubEmpty i

/-- A word write of the host keeps the store clauses. -/
theorem State.StoreInv.writeLanes (h : s.StoreInv) (off : Nat) (v : Word32) : (s.writeLanes off v).StoreInv where
  memCanonical := writeLanes_wf off v h.memCanonical
  privValid := by rw [State.writeLanes_ks]; exact h.privValid
  privEmpty := by rw [State.writeLanes_ks]; exact h.privEmpty
  pubEmpty := by rw [State.writeLanes_kp]; exact h.pubEmpty

/-- The writes of a command keep the store clauses (10_state.md R27, R30). -/
theorem CommandWrites.storeInv (h : CommandWrites s parts u) (hs : s.StoreInv) : u.StoreInv := by
  cases h with
  | nothing => exact hs
  | register d v => exact hs.congr rfl rfl rfl
  | accumulator v => exact hs.congr rfl rfl rfl
  | eqFlag b => exact hs.congr rfl rfl rfl
  | okFlag b => exact hs.congr rfl rfl rfl
  | point d q => exact hs.congr rfl rfl rfl
  | importedScalar i v hpos hlt =>
    refine hs.writeKs i (fun _ => ?_) (by simp)
    rw [BitVec.toNat_ofNat, Nat.mod_eq_of_lt (hlt.trans n_lt)]
    exact ⟨hpos, hlt⟩
  | disposedSlot i => exact hs.writeKs i (by simp) (fun _ => rfl)
  | importedPoint j => exact hs.writeKp j rfl
  | derivedPoint j i => exact hs.writeKp j rfl
  | exported bs hlen => exact hs.writeBuffer fun i hi => .inr (by rw [keyBase]; omega)

/-- However a command ends, the store clauses are kept. -/
theorem CommandEnd.storeInv (h : CommandEnd s parts t) (hs : s.StoreInv) : t.StoreInv := by
  cases h with
  | completed hw => exact (hw.storeInv hs).congr rfl rfl rfl
  | raised e => exact hs.congr rfl rfl rfl
  | signed after bs hlen =>
    have hentropy : (s.setEntropy after).StoreInv := hs.congr rfl rfl rfl
    have hwritten : ((s.setEntropy after).writeBuffer sigBase bs).StoreInv :=
      hentropy.writeBuffer fun i hi => .inr (by rw [sigBase]; omega)
    exact hwritten.congr rfl rfl rfl
  | entropyFailed after => exact hs.congr rfl rfl rfl
  | pending after => exact hs.congr rfl rfl rfl

end Store

section Outcome

/-- The outcome clauses speak of sequencer, `STATUS` and `FLAGS` alone. -/
theorem State.OutcomeInv.congr (h : s.OutcomeInv) (hseq : t.seq = s.seq) (hstatus : t.status = s.status)
    (hflags : t.flags = s.flags) : t.OutcomeInv := by
  obtain ⟨hbusy, herr, hcode, hfailed, hone⟩ := h
  exact ⟨by rwa [hseq, hstatus, hflags], by rwa [hstatus], by rwa [hstatus], by rwa [hstatus, hflags], by rwa [hflags]⟩

/-- From clear flags the writes of a command set at most one (10_state.md R36). -/
theorem CommandWrites.atMostOne (h : CommandWrites s parts u) (hs : s.flags = flagsClear) : u.flags.AtMostOne := by
  cases h <;> simp [Flags.AtMostOne, hs, flagsClear]

/-- A completed command shows no error, and at most one flag (60_exceptions.md R282). -/
theorem complete_outcomeInv (h : u.flags.AtMostOne) : u.complete.OutcomeInv where
  busyClear := by simp
  errCoded := by simp
  knownCode := .inl rfl
  failedClear := by simp
  oneFlag := h

/-- A failed command shows its code and no flag (60_exceptions.md R283). -/
theorem raise_outcomeInv (e : CommandError) (h : s.flags = flagsClear) : (s.raise e).OutcomeInv where
  busyClear := by simp
  errCoded := fun _ => code_ne_zero e
  knownCode := .inr ⟨e, rfl⟩
  failedClear := fun _ => h
  oneFlag := by simp [Flags.AtMostOne, h, flagsClear]

/-- However a command ends that acceptance started, the outcome clauses are met. -/
theorem CommandEnd.outcomeInv (h : CommandEnd s parts t) (hs : s.OutcomeInv) (hbusy : s.seq = .busy) :
    t.OutcomeInv := by
  obtain ⟨-, -, -, hflags⟩ := hs.busyClear hbusy
  cases h with
  | completed hw => exact complete_outcomeInv (hw.atMostOne hflags)
  | raised e => exact raise_outcomeInv e hflags
  | signed after bs => exact complete_outcomeInv hs.oneFlag
  | entropyFailed after => exact raise_outcomeInv _ hflags
  | pending after => exact hs.congr rfl rfl rfl

end Outcome

section Turns

/-- What lies outside the core has no part in the invariant. -/
theorem State.Inv.congr_env (h : s.Inv) (e : Environment) : ({ s with env := e } : State).Inv := { h with }

/-- The engine's turn keeps the invariant. -/
theorem engineTurn_inv (hs : s.Inv) (h : engineTurn s = .next t) : t.Inv := by
  obtain ⟨hstore, houtcome⟩ := inv_iff.mp hs
  rcases engineTurn_end h with rfl | ⟨hbusy, parts, hend⟩
  · exact hs
  · exact inv_iff.mpr ⟨hend.storeInv hstore, hend.outcomeInv houtcome hbusy⟩

theorem resetCore_inv (s : State) : s.resetCore.Inv := reset_inv.congr_env _

/-- Acceptance clears the outcome and the flags (60_exceptions.md R280). -/
theorem accept_outcomeInv (s : State) (v : Word32) : (s.accept v).OutcomeInv where
  busyClear := fun _ => ⟨rfl, rfl, rfl, rfl⟩
  errCoded := by simp
  knownCode := .inl rfl
  failedClear := fun _ => rfl
  oneFlag := ⟨rfl, rfl, rfl⟩

/-- A host write keeps the invariant (20_memory.md R64, R68). -/
theorem memWrite_inv (off : Nat) (v : Word32) (hs : s.Inv) : (s.memWrite off v).Inv := by
  obtain ⟨hstore, houtcome⟩ := inv_iff.mp hs
  rcases memWrite_cases s off v with ⟨-, ⟨-, h⟩ | ⟨-, h⟩⟩ | ⟨-, -, h⟩ |
    ⟨-, hidle, ⟨-, h⟩ | ⟨-, h⟩ | ⟨-, h⟩ | ⟨-, h⟩ | ⟨-, h⟩ | ⟨-, -, -, -, -, h⟩⟩ <;> rw [h]
  case _ => exact resetCore_inv s
  case _ => exact hs
  case _ => exact { hs with }
  case _ => exact inv_iff.mpr ⟨hstore.congr rfl rfl rfl, accept_outcomeInv s v⟩
  case _ => exact { hs with busyClear := by simp [hidle], errCoded := fun he => hs.errCoded (by simp_all) }
  case _ => exact { hs with }
  case _ => exact { hs with }
  case _ => exact { hs with }
  case _ =>
    exact inv_iff.mpr ⟨hstore.writeLanes off v,
      houtcome.congr State.writeLanes_seq State.writeLanes_status State.writeLanes_flags⟩

/-- An access of the host keeps the invariant. -/
theorem hostAccess_inv (a : HostAccess) (hs : s.Inv) : (s.hostAccess a).Inv := by
  cases a <;> rw [State.hostAccess] <;> split
  case read.isTrue => exact hs.congr_env _
  case read.isFalse => exact hs.congr_env _
  case write.isTrue off _ v _ => exact (memWrite_inv off v hs).congr_env _
  case write.isFalse => exact hs.congr_env _

/-- Settles O59: each turn keeps the invariant, the engine's through the ends a command has. -/
theorem stepKeepsTheInvariant : Obligations.StepKeepsTheInvariant := fun _ _ =>
  step_keeps (fun _ _ hs => hs.congr_env _) (fun _ a hs => hostAccess_inv a hs) (fun _ _ => engineTurn_inv)
    (fun _ _ hs => hs.congr_env _) (fun s _ => resetCore_inv s)

end Turns

section PublicSlots

/-- What a public slot of a sound state holds (10_state.md R30). -/
abbrev PubSlot.Sound (k : PubSlot) : Prop :=
  k.valid = true → onCurve k.x.toNat k.y.toNat = true ∧ pmul Config.n (.affine k.x.toNat k.y.toNat) = .inf

theorem State.PubSound.congr (h : s.PubSound) (hkp : t.kp = s.kp) : t.PubSound := by
  unfold State.PubSound
  rwa [hkp]

/-- Filling a slot of `kp` keeps the others sound. -/
theorem State.PubSound.writeKp (h : s.PubSound) (j : Fin 4) {k : PubSlot} (hk : k.Sound) : (s.writeKp j k).PubSound := by
  intro i
  rw [State.writeKp_kp, bank_get_set]
  split
  · exact hk
  · exact h i

/-- A reduced pair that is a point of the curve in the group of order `n` makes a sound slot. -/
theorem sound_slot {x y : Nat} (hcurve : onCurve x y = true) (hgroup : pmul Config.n (.affine x y) = .inf) :
    PubSlot.Sound { x := BitVec.ofNat 256 x, y := BitVec.ofNat 256 y, valid := true } := by
  obtain ⟨hx, hy, -⟩ := (onCurve_iff x y).mp hcurve
  have hp : Config.p < 2 ^ 256 := (modulus_bounds .p).2
  intro _
  rw [BitVec.toNat_ofNat, BitVec.toNat_ofNat, Nat.mod_eq_of_lt (hx.trans hp), Nat.mod_eq_of_lt (hy.trans hp)]
  exact ⟨hcurve, hgroup⟩

/-- `DERIVE` of a scalar in range makes a sound slot (43_key_material.md R201). -/
theorem derivedSlot_sound {d : Word256} (hpos : 0 < d.toNat) (hlt : d.toNat < Config.n) : (derivedSlot d).Sound := by
  obtain ⟨x, y, hq, hcurve, hgroup⟩ := pmul_basePoint_finite d.toNat hpos hlt
  rw [derivedSlot, hq]
  exact sound_slot hcurve hgroup

/-- The writes of a command keep the public slots sound: only a validated or a derived point fills one. -/
theorem CommandWrites.pubSound (h : CommandWrites s parts u) (hs : s.StoreInv) (hpub : s.PubSound) : u.PubSound := by
  cases h with
  | nothing => exact hpub
  | register d v => exact hpub.congr rfl
  | accumulator v => exact hpub.congr rfl
  | eqFlag b => exact hpub.congr rfl
  | okFlag b => exact hpub.congr rfl
  | point d q => exact hpub.congr rfl
  | importedScalar i => exact hpub.congr rfl
  | disposedSlot i => exact hpub.congr rfl
  | importedPoint j x y hvalid =>
    obtain ⟨hcurve, hgroup⟩ := (validate_valid x y).mp hvalid
    exact hpub.writeKp j (sound_slot hcurve hgroup)
  | derivedPoint j i hvalid =>
    obtain ⟨hpos, hlt⟩ := hs.privValid i hvalid
    exact hpub.writeKp j (derivedSlot_sound hpos hlt)
  | exported bs => exact hpub.congr rfl

/-- However a command ends, the public slots stay sound. -/
theorem CommandEnd.pubSound (h : CommandEnd s parts t) (hs : s.StoreInv) (hpub : s.PubSound) : t.PubSound := by
  cases h with
  | completed hw => exact (hw.pubSound hs hpub).congr rfl
  | raised e => exact hpub.congr rfl
  | signed after bs => exact hpub.congr rfl
  | entropyFailed after => exact hpub.congr rfl
  | pending after => exact hpub.congr rfl

theorem engineTurn_pubSound (hs : s.Inv) (hpub : s.PubSound) (h : engineTurn s = .next t) : t.PubSound := by
  rcases engineTurn_end h with rfl | ⟨-, parts, hend⟩
  · exact hpub
  · exact hend.pubSound (inv_iff.mp hs).1 hpub

/-- A host write leaves the public slots, or resets them (10_state.md R29). -/
theorem memWrite_kp (s : State) (off : Nat) (v : Word32) :
    (s.memWrite off v).kp = s.kp ∨ (s.memWrite off v).kp = State.reset.kp := by
  rcases memWrite_cases s off v with ⟨-, ⟨-, h⟩ | ⟨-, h⟩⟩ | ⟨-, -, h⟩ |
    ⟨-, -, ⟨-, h⟩ | ⟨-, h⟩ | ⟨-, h⟩ | ⟨-, h⟩ | ⟨-, h⟩ | ⟨-, -, -, -, -, h⟩⟩ <;> rw [h] <;> simp

theorem hostAccess_pubSound (a : HostAccess) (hpub : s.PubSound) : (s.hostAccess a).PubSound := by
  cases a <;> rw [State.hostAccess] <;> split
  case read.isTrue => exact hpub.congr rfl
  case read.isFalse => exact hpub.congr rfl
  case write.isTrue off _ v _ =>
    rcases memWrite_kp s off v with h | h
    · exact hpub.congr h
    · exact reset_pubSound.congr h
  case write.isFalse => exact hpub.congr rfl

/-- Settles O60: each turn keeps the public slots sound; for the slots `DERIVE` fills, by the order of the base point. -/
theorem stepKeepsPublicSlotsSound : Obligations.StepKeepsPublicSlotsSound := by
  intro s t hinv hpub h
  have hkeeps : t.Inv ∧ t.PubSound := step_keeps (P := fun s => s.Inv ∧ s.PubSound)
    (fun _ _ ⟨hs, hp⟩ => ⟨hs.congr_env _, hp.congr rfl⟩)
    (fun _ a ⟨hs, hp⟩ => ⟨hostAccess_inv a hs, hostAccess_pubSound a hp⟩)
    (fun _ _ ⟨hs, hp⟩ he => ⟨engineTurn_inv hs he, engineTurn_pubSound hs hp he⟩)
    (fun _ _ ⟨hs, hp⟩ => ⟨hs.congr_env _, hp.congr rfl⟩)
    (fun s _ => ⟨resetCore_inv s, reset_pubSound.congr rfl⟩) ⟨hinv, hpub⟩ h
  exact hkeeps.2

end PublicSlots

end Invariant

end Sys2Proof.Machine

/-! PROOF. What does not depend on the slots of `ks` (O56, O57). -/

namespace Sys2Proof.Machine

section HostAccessAndSecrets

variable (s : State) (ks : Vector PrivSlot 4)

/-- A byte write does not look at `ks`. -/
theorem writeWindowByte_withKs (o : Nat) (b : Byte) :
    (s.withKs ks).writeWindowByte o b = (s.writeWindowByte o b).withKs ks := by
  unfold State.writeWindowByte
  cases byteHome o <;> rfl

theorem writeLanes_withKs (off : Nat) (v : Word32) :
    (s.withKs ks).writeLanes off v = (s.writeLanes off v).withKs ks := by
  simp only [State.writeLanes, writeWindowByte_withKs]

/-- No read answers a part of `ks` (10_state.md R28). -/
theorem memRead_withKs (off : Nat) : (s.withKs ks).memRead off = s.memRead off := rfl

/-- A host write does not look at `ks`: it resets the core, or does the same beside those slots (10_state.md R28). -/
theorem memWrite_withKs (off : Nat) (v : Word32) :
    (s.withKs ks).memWrite off v = s.memWrite off v ∨
    (s.withKs ks).memWrite off v = (s.memWrite off v).withKs ks := by
  have hbusy : (s.withKs ks).busy = s.busy := rfl
  unfold State.memWrite
  rw [hbusy]
  split_ifs
  · exact .inl rfl
  · exact .inr rfl
  · exact .inr rfl
  · exact .inr rfl
  · exact .inr rfl
  · exact .inr rfl
  · exact .inr rfl
  · exact .inr rfl
  · exact .inr (writeLanes_withKs s ks off v)

/-- Settles O56: reads answer the same, and writes do the same beside the slots. -/
theorem hostAccessRevealsNoPrivateKey : Obligations.HostAccessRevealsNoPrivateKey := by
  intro s ks a
  cases a with
  | read off width =>
    simp only [State.hostAccess, memRead_withKs]
    split
    · exact ⟨rfl, rfl⟩
    · exact ⟨rfl, rfl⟩
  | write off width v =>
    simp only [State.hostAccess]
    split
    · rcases memWrite_withKs s ks off v with h | h <;> rw [h]
      · exact ⟨rfl, rfl⟩
      · exact ⟨rfl, rfl⟩
    · exact ⟨rfl, rfl⟩

end HostAccessAndSecrets

section CommandsAndSecrets

variable (s : State) (ks : Vector PrivSlot 4)

/-- A state without the content of `ks`. -/
def State.blank (s : State) : State := s.withKs State.reset.ks

/-- What a command concludes is the same beside `ks`, if its pseudocode leaves the same beside `ks`. -/
theorem blankKs_conclude {c c' : Checked State} (h : c'.map State.blank = c.map State.blank) :
    blankKs ((s.withKs ks).conclude c') = blankKs (s.conclude c) := by
  cases c with
  | ok u =>
    cases c' with
    | ok u' =>
      have hu : u'.blank.complete = u.blank.complete := by rw [Except.ok.inj h]
      exact congrArg Host.Outcome.next hu
    | error e => cases h
  | error e =>
    cases c' with
    | ok u' => cases h
    | error e' => obtain rfl := Except.error.inj h; rfl

/-- A check of a command is passed over when two runs are compared. -/
theorem map_checked_bind {α : Type} (x : Checked α) (f : α → Checked State) :
    (x >>= f).map State.blank = x >>= fun a => (f a).map State.blank := by
  cases x <;> rfl

theorem map_checked_ok (u : State) : (Except.ok u : Checked State).map State.blank = .ok u.blank := rfl

/-- Settles O57: the pseudocode of every other command reads and leaves the same beside the slots. -/
theorem onlyThreeCommandsReadAPrivateKey : Obligations.OnlyThreeCommandsReadAPrivateKey := by
  intro i s ks h
  cases i with
  | exppriv => cases h
  | derive => cases h
  | sign => cases h
  | _ =>
    simp only [exec, execNop, execFadd, execFsub, execFmul, execFinv, execFeq, execMulw, execBred, execMmul, execMtom,
      execMfrom, modBinary, modUnary, execPadd, execPdbl, execPmul, execPchk, execPldg, execImppriv, execImppub,
      execExppub, execDispose, execVerify]
    refine blankKs_conclude s ks ?_
    simp only [map_checked_bind, map_checked_ok]
    rfl

end CommandsAndSecrets

end Sys2Proof.Machine

/-! PROOF. The reset table, and the words of the control registers (O52, O54, O55). -/

namespace Sys2Proof.Machine

section ResetTable

/-- The values of the reset table, of any state that the core was reset to (10_state.md R45). -/
theorem resetState_values {t : State} (h : t = { State.reset with env := t.env }) :
    (∀ i : Fin 8, t.w[i] = 0#256) ∧ t.acc = 0#512 ∧
    (∀ j : Fin 4, t.pt[j] = { x := 0#256, y := 0#256, inf := true }) ∧
    (∀ i : Fin 4, t.ks[i] = { d := 0#256, valid := false }) ∧
    (∀ j : Fin 4, t.kp[j] = { x := 0#256, y := 0#256, valid := false }) ∧
    (∀ o : Nat, Memory.read t.mem o = 0#8) ∧ t.seq = .idle ∧ t.irq = false := by
  rw [h]
  exact ⟨by simp [State.reset], rfl, by simp [State.reset], by simp [State.reset], by simp [State.reset], fun _ => rfl,
    rfl, rfl⟩

/-- What the control registers answer to a read in every state, and `PTINF` on an idle core (10_state.md R33 to R38). -/
theorem memRead_control (s : State) :
    s.memRead 0x000 = Config.id ∧ s.memRead 0x004 = s.cmdLatch ∧ s.memRead 0x008 = s.statusWord ∧
    s.memRead 0x00C = s.flagsWord ∧ s.memRead 0x010 = s.cfgWord ∧ s.memRead 0x014 = s.intenWord ∧
    (s.seq = .idle → s.memRead 0x400 = s.ptinfWord) := by
  refine ⟨?_, ?_, ?_, ?_, ?_, ?_, fun hidle => ?_⟩
  case refine_7 => simp [State.memRead, State.controlWord, State.busy, hidle]
  all_goals simp [State.memRead, State.controlWord]

/-- The words of the control registers after a reset (10_state.md R45). -/
theorem resetState_words {t : State} (h : t = { State.reset with env := t.env }) :
    t.ptinfWord = 0x0000000F#32 ∧ t.cmdLatch = 0#32 ∧ t.statusWord = 0#32 ∧ t.flagsWord = 0#32 ∧
    t.cfgWord = 0#32 ∧ t.intenWord = 0#32 := by
  have hreset : State.reset.ptinfWord = 0x0000000F#32 ∧ State.reset.cmdLatch = 0#32 ∧ State.reset.statusWord = 0#32 ∧
      State.reset.flagsWord = 0#32 ∧ State.reset.cfgWord = 0#32 ∧ State.reset.intenWord = 0#32 := by decide
  rw [h]
  exact hreset

/-- Settles O52: the reset input, the soft reset and `State.reset` differ in the environment alone. -/
theorem resetLeavesTheValuesOfTheTable : Obligations.ResetLeavesTheValuesOfTheTable := by
  intro s t v hv ht
  have hreset : t = { State.reset with env := t.env } := by
    rcases ht with rfl | h | h
    · rfl
    · obtain rfl := Host.Outcome.next.inj h
      rfl
    · obtain rfl : s.resetCore = t := by simpa [State.memWrite, hv] using h
      rfl
  obtain ⟨hw, hacc, hpt, hks, hkp, hmem, hseq, hirq⟩ := resetState_values hreset
  obtain ⟨hptinf, hcmd, hstatus, hflags, hcfg, hinten⟩ := resetState_words hreset
  obtain ⟨rid, rcmd, rstatus, rflags, rcfg, rinten, rptinf⟩ := memRead_control t
  exact ⟨hw, hacc, hpt, (rptinf hseq).trans hptinf, hks, hkp, hmem, hseq, rcmd.trans hcmd, rstatus.trans hstatus,
    rflags.trans hflags, rcfg.trans hcfg, rinten.trans hinten, hirq, rid, windowByte_const t⟩

end ResetTable

section ControlRegisters

variable (s : State)

/-- The fields of `STATUS` at their bits (10_state.md R35). -/
theorem statusWord_fields :
    s.statusWord.getLsbD 0 = s.busy ∧ s.statusWord.getLsbD 1 = s.status.done ∧
    s.statusWord.getLsbD 2 = s.status.err ∧ s.statusWord.getLsbD 3 = s.status.wrdrop ∧
    s.statusWord.extractLsb' 8 8 = s.status.errcode ∧ s.statusWord.extractLsb' 4 4 = 0#4 ∧
    s.statusWord.extractLsb' 16 16 = 0#16 := by
  unfold State.statusWord
  refine ⟨?_, ?_, ?_, ?_, BitVec.eq_of_getLsbD_eq fun k hk => ?_, BitVec.eq_of_getLsbD_eq fun k hk => ?_,
    BitVec.eq_of_getLsbD_eq fun k hk => ?_⟩ <;> simp only [BitVec.getLsbD_extractLsb', BitVec.getLsbD_append]
  case refine_5 => simp [hk]
  case refine_6 => simp [hk]
  case refine_7 => simp [hk]; omega
  all_goals simp

/-- The fields of `FLAGS` at their bits (10_state.md R36). -/
theorem flagsWord_fields :
    s.flagsWord.getLsbD 0 = s.flags.eq ∧ s.flagsWord.getLsbD 1 = s.flags.inf ∧ s.flagsWord.getLsbD 2 = s.flags.ok := by
  unfold State.flagsWord
  refine ⟨?_, ?_, ?_⟩ <;> simp only [BitVec.getLsbD_append] <;> simp

/-- Bit `j` of `PTINF` is `pt[j].inf` (10_state.md R26). -/
theorem ptinfWord_bit (j : Fin 4) : s.ptinfWord.getLsbD j = s.pt[j].inf := by
  unfold State.ptinfWord
  fin_cases j <;> simp only [BitVec.getLsbD_append] <;> simp

/-- `CFG` holds the nonce mode in bits 1:0 (10_state.md R37). -/
theorem cfgWord_field : s.cfgWord.extractLsb' 0 2 = s.nonceMode := by
  unfold State.cfgWord
  refine BitVec.eq_of_getLsbD_eq fun k hk => ?_
  simp only [BitVec.getLsbD_extractLsb', BitVec.getLsbD_append]
  simp [hk]

/-- The fields of `INTEN` at their bits (10_state.md R38). -/
theorem intenWord_fields : s.intenWord.getLsbD 0 = s.inten.doneIe ∧ s.intenWord.getLsbD 1 = s.inten.errIe := by
  unfold State.intenWord
  refine ⟨?_, ?_⟩ <;> simp only [BitVec.getLsbD_append] <;> simp

/-- What the writes of the control registers are on an idle core (20_memory.md R64). -/
theorem memWrite_control {s : State} (v : Word32) (hidle : s.seq = .idle) :
    s.memWrite 0x008 v = s.clearStatus v ∧ s.memWrite 0x010 v = s.writeCfg v ∧ s.memWrite 0x014 v = s.writeInten v ∧
    s.memWrite 0x400 v = s.writePtinf v := by
  simp [State.memWrite, State.busy, hidle]

/-- Settles O54: the words' fields, the four control writes, and the life cycle's changes of `STATUS`. -/
theorem statusBitsClearByWritingOne : Obligations.StatusBitsClearByWritingOne := by
  intro s v e
  obtain ⟨hbusy, hdone, herr, hwrdrop, hcode, hlow, hhigh⟩ := statusWord_fields s
  obtain ⟨heq, hinf, hok⟩ := flagsWord_fields s
  obtain ⟨hdoneIe, herrIe⟩ := intenWord_fields s
  refine ⟨hbusy, hdone, herr, hwrdrop, hcode, hlow, hhigh, heq, hinf, hok, ptinfWord_bit s, cfgWord_field s, hdoneIe,
    herrIe, fun hidle => ?_, fun hidle => ?_, s.busy_iff, rfl, rfl, rfl, rfl, rfl⟩
  · obtain ⟨-, hcfg, hinten, hptinf⟩ := memWrite_control v hidle
    rw [hcfg, hinten, hptinf]
    exact ⟨rfl, rfl, rfl, by simp⟩
  · obtain ⟨hstatus, -, -, -⟩ := memWrite_control v hidle
    exact hstatus

/-- Settles O55: by the definition of the output. -/
theorem irqFollowsStatusAndInten : Obligations.IrqFollowsStatusAndInten := by
  intro s
  simp [State.irq]

end ControlRegisters

end Sys2Proof.Machine

/-! PROOF. The accesses of the host: what a read answers, and which writes leave the core as it is (O47, O48, O50). -/

namespace Sys2Proof.Machine

section UnmappedOffsets

variable {s : State} {off o : Nat} {v : Word32} {b : Byte}

/-- The reserved words of the window map (20_memory.md R62). -/
abbrev reservedWord (off : Nat) : Prop :=
  off % 4 = 0 ∧ ((0x01C ≤ off ∧ off < 0x040) ∨ (0x0A0 ≤ off ∧ off < 0x0C0) ∨ (0x144 ≤ off ∧ off < 0x200) ∨
    (0x404 ≤ off ∧ off < 0x800) ∨ 0x8C0 ≤ off)

/-- The words of the window map that a write leaves alone: `ID`, `FLAGS`, the constants and the reserved ones
(20_memory.md R62, R64, R67). -/
abbrev readOnlyWord (off : Nat) : Prop :=
  off = 0x000 ∨ off = 0x00C ∨ (off % 4 = 0 ∧ 0x800 ≤ off ∧ off < 0x8C0) ∨ reservedWord off

/-- An offset that is neither writable nor a constant's maps no byte, and reads zero (20_memory.md R67). -/
theorem windowByte_unmapped (hdata : ¬writableByte o) (hconst : ¬(0x800 ≤ o ∧ o < 0x8C0)) : s.windowByte o = 0#8 := by
  have hhome : byteHome o = .none := by
    unfold byteHome
    repeat rw [if_neg (by omega)]
  simp only [State.windowByte, hhome]

/-- A byte write outside the writable regions changes nothing (20_memory.md R67). -/
theorem writeWindowByte_readOnly (ho : ¬writableByte o) : s.writeWindowByte o b = s := by
  have hat := byteHome_at o
  unfold State.writeWindowByte
  cases hhome : byteHome o <;> simp only [hhome, ByteHome.At] at hat
  case const => rfl
  case none => rfl
  all_goals omega

/-- The control registers are below `0x01C`, and `PTINF` (20_memory.md R62). -/
theorem controlWord_eq_none (hlow : 0x01C ≤ off) (hptinf : off ≠ 0x400) : s.controlWord off = none := by
  unfold State.controlWord
  repeat rw [if_neg (by omega)]

/-- A reserved word reads zero in every state (20_memory.md R67, R69). -/
theorem memRead_reserved (s : State) (hoff : reservedWord off) : s.memRead off = 0#32 := by
  unfold State.memRead
  split
  · rfl
  · simp only [controlWord_eq_none (s := s) (show 0x01C ≤ off by omega) (by omega)]
    have hbyte : ∀ k < 4, s.windowByte (off + k) = 0#8 := fun k hk => windowByte_unmapped (by omega) (by omega)
    rw [hbyte 1 (by omega), hbyte 2 (by omega), hbyte 3 (by omega), ← Nat.add_zero off, hbyte 0 (by omega)]
    rfl

/-- `CTRL` reads zero in every state (10_state.md R39). -/
theorem memRead_ctrl (s : State) : s.memRead 0x018 = 0#32 := by simp [State.memRead, State.controlWord]

/-- On a busy core every offset from `0x040` up reads zero (20_memory.md R69). -/
theorem memRead_busy (hbusy : s.seq = .busy) (hoff : 0x040 ≤ off) : s.memRead off = 0#32 :=
  if_pos ⟨s.busy_iff.mpr hbusy, hoff⟩

/-- A word write whose four bytes are outside the writable regions changes nothing (20_memory.md R67). -/
theorem writeLanes_readOnly (hbytes : ∀ k < 4, ¬writableByte (off + k)) : s.writeLanes off v = s := by
  have hbyte0 : ¬writableByte off := hbytes 0 (by omega)
  rw [State.writeLanes, writeWindowByte_readOnly hbyte0, writeWindowByte_readOnly (hbytes 1 (by omega)),
    writeWindowByte_readOnly (hbytes 2 (by omega)), writeWindowByte_readOnly (hbytes 3 (by omega))]

/-- On an idle core a write to a read-only or reserved word changes nothing (20_memory.md R67). -/
theorem memWrite_readOnly (hidle : s.seq = .idle) (hoff : readOnlyWord off) : s.memWrite off v = s := by
  rcases memWrite_cases s off v with ⟨h, -⟩ | ⟨-, hbusy, -⟩ | ⟨-, -, h | h | h | h | h | ⟨-, -, -, -, -, h⟩⟩
  case inr.inl => simp [hidle] at hbusy
  case inr.inr.inr.inr.inr.inr.inr => rw [h, writeLanes_readOnly fun k hk => by omega]
  all_goals omega

/-- A write of `CTRL` with bit 0 clear changes nothing, busy or idle (10_state.md R39). -/
theorem memWrite_ctrl_clear (s : State) (hv : v.getLsbD 0 = false) : s.memWrite 0x018 v = s := by
  unfold State.memWrite
  rw [if_pos rfl, hv]
  rfl

/-- A busy core drops every write but that of `CTRL` (20_memory.md R68). -/
theorem memWrite_busy (hbusy : s.seq = .busy) (hoff : off ≠ 0x018) : s.memWrite off v = s.dropWrite := by
  rcases memWrite_cases s off v with ⟨h, -⟩ | ⟨-, -, h⟩ | ⟨-, hidle, -⟩
  · exact absurd h hoff
  · exact h
  · simp [hbusy] at hidle

/-- Settles O48: the whole of a dropped write is its `WRDROP`. -/
theorem busyWritesAreDropped : Obligations.BusyWritesAreDropped :=
  fun _ _ _ hbusy hoff => memWrite_busy hbusy hoff

end UnmappedOffsets

section HostReads

variable (s : State) (off width : Nat) (v : Word32)

/-- A read only sets the port's answer: the data of an access that exists, else `BusError` (20_memory.md R63, R70). -/
theorem hostAccess_read :
    s.hostAccess (.read off width) =
      s.respond (if legalAccess off width then .data (s.memRead off) else .busError) := by
  rw [State.hostAccess]
  split <;> rfl

/-- A write that does not exist only answers `BusError` (20_memory.md R70). -/
theorem hostAccess_write_illegal (h : ¬legalAccess off width) :
    s.hostAccess (.write off width v) = s.respond .busError := if_neg h

/-- Settles O47: a read only responds, and each aligned offset answers its control word, zero or its four bytes. -/
theorem readsHaveNoSideEffect : Obligations.ReadsHaveNoSideEffect := by
  intro s off width v
  obtain ⟨hid, hcmd, hstatus, hflags, hcfg, hinten, hptinf⟩ := memRead_control s
  have hread := hostAccess_read s off width
  refine ⟨⟨_, hread⟩, fun hlegal => ?_, memRead_busy, hid, hcmd, hstatus, hflags, hcfg, hinten,
    fun halign hlow hhigh => ?_, hptinf, fun hidle _ => memRead_bytes hidle, fun hillegal => ⟨?_, ?_⟩⟩
  · rw [hread, if_pos hlegal]
    rfl
  · by_cases hctrl : off = 0x018
    · rw [hctrl, memRead_ctrl]
    · exact memRead_reserved s ⟨halign, .inl ⟨by omega, hhigh⟩⟩
  · rw [hread, if_neg hillegal]
    rfl
  · exact hostAccess_write_illegal s off width v hillegal

end HostReads

section Masks

/-- Two strings that agree under a mask in each half agree under the mask of both halves. -/
theorem append_and_congr {m k : Nat} {x x' a : BitVec m} {y y' b : BitVec k} (hhigh : x &&& a = x' &&& a)
    (hlow : y &&& b = y' &&& b) : (x ++ y) &&& (a ++ b) = (x' ++ y') &&& (a ++ b) := by
  rw [BitVec.and_append, BitVec.and_append, hhigh, hlow]

/-- Any two strings agree under the mask that hides everything. -/
theorem and_hidden {k : Nat} (y y' : BitVec k) : y &&& 0#k = y' &&& 0#k := by
  rw [BitVec.and_zero, BitVec.and_zero]

/-- A string that is zero under a mask in each half is zero under the mask of both halves. -/
theorem append_and_zero {m k : Nat} {x a : BitVec m} {y b : BitVec k} (hhigh : x &&& a = 0#m) (hlow : y &&& b = 0#k) :
    (x ++ y) &&& (a ++ b) = 0#(m + k) := by
  rw [BitVec.and_append, hhigh, hlow, BitVec.zero_append_zero]

/-- A field that the mask hides does not show. -/
theorem append_and_hidden {m k : Nat} {x a : BitVec m} (hhigh : x &&& a = 0#m) (y : BitVec k) :
    (x ++ y) &&& (a ++ 0#k) = 0#(m + k) := append_and_zero hhigh BitVec.and_zero

/-- A mask with one more bit below it keeps that bit of a word. -/
theorem extract_and_append_one {n m k : Nat} {v : BitVec n} {a x : BitVec m} (h : v.extractLsb' (k + 1) m &&& a = x) :
    v.extractLsb' k (m + 1) &&& (a ++ 1#1) = x ++ BitVec.ofBool (v.getLsbD k) := by
  have hbit : v.extractLsb' k 1 &&& 1#1 = BitVec.ofBool (v.getLsbD k) := by
    ext i hi
    obtain rfl : i = 0 := by omega
    simp
  rw [← BitVec.extractLsb'_append_extractLsb'_eq_extractLsb' rfl, BitVec.and_append, h, hbit]

end Masks

section ReservedBits

variable (s : State) (v : Word32)

/-- The reserved bits of `STATUS` read zero (10_state.md R35). -/
theorem statusWord_reserved : s.statusWord &&& 0xFFFF00F0#32 = 0#32 :=
  have hbits4to31 : (0#16 ++ s.status.errcode ++ 0#4) &&& 0xFFFF00F#28 = 0#28 :=
    append_and_zero (b := 0xF#4) (append_and_hidden (a := 0xFFFF#16) BitVec.zero_and _) rfl
  append_and_hidden (append_and_hidden (append_and_hidden (append_and_hidden hbits4to31 _) _) _) _

/-- The reserved bits of `FLAGS` read zero (10_state.md R36). -/
theorem flagsWord_reserved : s.flagsWord &&& 0xFFFFFFF8#32 = 0#32 :=
  append_and_hidden (append_and_hidden (append_and_hidden (a := BitVec.allOnes 29) BitVec.zero_and _) _) _

/-- The reserved bits of `CFG` read zero (10_state.md R37). -/
theorem cfgWord_reserved : s.cfgWord &&& 0xFFFFFFFC#32 = 0#32 :=
  append_and_hidden (a := BitVec.allOnes 30) BitVec.zero_and _

/-- The reserved bits of `INTEN` read zero (10_state.md R38). -/
theorem intenWord_reserved : s.intenWord &&& 0xFFFFFFFC#32 = 0#32 :=
  append_and_hidden (append_and_hidden (a := BitVec.allOnes 30) BitVec.zero_and _) _

/-- The reserved bits of `PTINF` read zero (10_state.md R26). -/
theorem ptinfWord_reserved : s.ptinfWord &&& 0xFFFFFFF0#32 = 0#32 :=
  append_and_hidden (append_and_hidden (append_and_hidden (append_and_hidden (a := BitVec.allOnes 28)
    BitVec.zero_and _) _) _) _

/-- `CFG` reads back bits 1:0 of what is written (10_state.md R37). -/
theorem cfgWord_writeCfg : (s.writeCfg v).cfgWord = v &&& 0x00000003#32 := by
  have hsplit : v.extractLsb' 2 30 ++ v.extractLsb' 0 2 = v := BitVec.extractLsb'_append_extractLsb'
  have hlow : (v.extractLsb' 2 30 ++ v.extractLsb' 0 2) &&& (0#30 ++ BitVec.allOnes 2) = (s.writeCfg v).cfgWord := by
    rw [BitVec.and_append, BitVec.and_zero, BitVec.and_allOnes, State.cfgWord, State.writeCfg_nonceMode]
  exact hlow.symm.trans (congrArg (· &&& 0x00000003#32) hsplit)

/-- `INTEN` reads back bits 1:0 of what is written (10_state.md R38). -/
theorem intenWord_writeInten : (s.writeInten v).intenWord = v &&& 0x00000003#32 := by
  have hlow : v.extractLsb' 0 32 &&& 0x00000003#32 = (s.writeInten v).intenWord :=
    extract_and_append_one (extract_and_append_one (a := 0#30) BitVec.and_zero)
  rw [← hlow, BitVec.extractLsb'_eq_self]

/-- `PTINF` reads back bits 3:0 of what is written (10_state.md R26). -/
theorem ptinfWord_writePtinf : (s.writePtinf v).ptinfWord = v &&& 0x0000000F#32 := by
  have hlow : v.extractLsb' 0 32 &&& 0x0000000F#32 = (s.writePtinf v).ptinfWord :=
    extract_and_append_one (extract_and_append_one (extract_and_append_one (extract_and_append_one (a := 0#28)
      BitVec.and_zero)))
  rw [← hlow, BitVec.extractLsb'_eq_self]

/-- A write of `STATUS` leaves the bits of its word other than `DONE`, `ERR` and `WRDROP` (10_state.md R35). -/
theorem statusWord_clearStatus :
    (s.clearStatus v).statusWord &&& 0xFFFFFFF1#32 = s.statusWord &&& 0xFFFFFFF1#32 :=
  append_and_congr (b := 1#1) (append_and_congr (append_and_congr (append_and_congr (a := BitVec.allOnes 28)
    rfl (and_hidden _ _)) (and_hidden _ _)) (and_hidden _ _)) rfl

/-- Settles O50: unmapped and read-only words by the window map, the reserved bits by the layout of each word. -/
theorem readOnlyOffsetsIgnoreWrites : Obligations.ReadOnlyOffsetsIgnoreWrites := by
  intro s off v hidle halign _
  obtain ⟨hstatus, hcfg, hinten, hptinf⟩ := memWrite_control v hidle
  rw [hstatus, hcfg, hinten, hptinf]
  refine ⟨fun hoff => memWrite_readOnly hidle ?_, fun hreserved => memRead_reserved s ⟨halign, hreserved⟩,
    memRead_ctrl s, memWrite_ctrl_clear s, statusWord_reserved s, flagsWord_reserved s, cfgWord_reserved s,
    intenWord_reserved s, ptinfWord_reserved s, cfgWord_writeCfg s v, intenWord_writeInten s v,
    ptinfWord_writePtinf s v, statusWord_clearStatus s v⟩
  rcases hoff with hid | hflags | hconst | hreserved
  · exact .inl hid
  · exact .inr (.inl hflags)
  · exact .inr (.inr (.inl ⟨halign, hconst⟩))
  · exact .inr (.inr (.inr ⟨halign, hreserved⟩))

end ReservedBits

end Sys2Proof.Machine

/-! PROOF. A command word read a field at a time: its seven fields determine it, and a row of the opcode table tests
each of them (30_encoding.md R90 to R95). -/

namespace Sys2Proof

section CommandFields

/-- The word of all seven fields, reserved bits included (30_encoding.md R90). -/
def Fields.word (f : Fields) : Word32 :=
  f.len ++ f.rb ++ f.ra ++ f.rd ++ f.reserved ++ BitVec.ofBool f.m ++ f.opcode

theorem assemble_eq_word (opcode : BitVec 8) (m : Bool) (rd ra rb : Sel) (len : Byte) :
    assemble opcode m rd ra rb len = Fields.word ⟨opcode, m, 0#3, rd, ra, rb, len⟩ := rfl

@[simp] theorem Fields.ofWord_word (f : Fields) : Fields.ofWord f.word = f := by
  obtain ⟨opcode, m, reserved, rd, ra, rb, len⟩ := f
  unfold Fields.word Fields.ofWord
  congr 1
  case e_opcode => exact BitVec.extractLsb'_append_eq_right
  case e_m => simp only [BitVec.getLsbD_append]; simp
  all_goals
    iterate rw [BitVec.extractLsb'_append_eq_of_le (by decide)]
  case e_len => exact BitVec.extractLsb'_eq_self
  all_goals exact BitVec.extractLsb'_append_eq_right

@[simp] theorem Fields.word_ofWord (c : Word32) : (Fields.ofWord c).word = c := by
  have hm : BitVec.ofBool (c.getLsbD 8) = c.extractLsb' 8 1 := by
    ext k hk
    obtain rfl : k = 0 := by omega
    simp
  simp only [Fields.ofWord, Fields.word, hm]
  iterate 6 rw [BitVec.extractLsb'_append_extractLsb'_eq_extractLsb' (by rfl)]
  exact BitVec.extractLsb'_eq_self

@[simp] theorem Fields.word_inj {f g : Fields} : f.word = g.word ↔ f = g :=
  (Function.LeftInverse.injective Fields.ofWord_word).eq_iff

/-- The operand fields at their bits (30_encoding.md R90). -/
theorem Fields.word_slices (f : Fields) :
    f.word[8] = f.m ∧ f.word.extractLsb' 12 4 = f.rd ∧ f.word.extractLsb' 16 4 = f.ra ∧
    f.word.extractLsb' 20 4 = f.rb ∧ f.word.extractLsb' 24 8 = f.len := by
  have h := Fields.ofWord_word f
  exact ⟨congrArg Fields.m h, congrArg Fields.rd h, congrArg Fields.ra h, congrArg Fields.rb h, congrArg Fields.len h⟩

/-- The fields that a mask leaves. -/
def Fields.and (f mask : Fields) : Fields :=
  ⟨f.opcode &&& mask.opcode, f.m && mask.m, f.reserved &&& mask.reserved, f.rd &&& mask.rd, f.ra &&& mask.ra,
    f.rb &&& mask.rb, f.len &&& mask.len⟩

theorem Fields.ofWord_and (c mask : Word32) :
    Fields.ofWord (c &&& mask) = (Fields.ofWord c).and (Fields.ofWord mask) := by
  simp [Fields.ofWord, Fields.and, BitVec.extractLsb'_and]

/-- A row's test is a test of each field (30_encoding.md R95). -/
theorem Row.accepts_word (r : Row) (f : Fields) :
    r.accepts f.word = true ↔ f.and (Fields.ofWord r.mask) = Fields.ofWord r.pattern := by
  rw [Row.accepts, beq_iff_eq, ← (Function.LeftInverse.injective Fields.word_ofWord).eq_iff, Fields.ofWord_and,
    Fields.ofWord_word]

/-- Mask bit 3 is the range check of a `w` selector (30_encoding.md R92). -/
theorem Sel.isW_iff (r : Sel) : Sel.isW r = true ↔ r &&& 8#4 = 0#4 := by revert r; decide

/-- Mask bits 3:2 are the range check of a slot selector (30_encoding.md R92). -/
theorem Sel.isSlot_iff (r : Sel) : Sel.isSlot r = true ↔ r &&& 12#4 = 0#4 := by revert r; decide

@[simp] theorem Modulus.ofBit_bit (m : Modulus) : Modulus.ofBit m.bit = m := by cases m <;> rfl

@[simp] theorem Modulus.bit_ofBit (b : Bool) : (Modulus.ofBit b).bit = b := by cases b <;> rfl

end CommandFields

end Sys2Proof

/-! PROOF. The opcode table: an opcode determines its row, a row accepts exactly the words of its well-formed commands,
and every command has a row (30_encoding.md R91 to R95). -/

namespace Sys2Proof

section OpcodeTable

/-- Every row tests the whole opcode. -/
theorem opcodeTable_mask_opcode : ∀ r ∈ opcodeTable, r.mask.extractLsb' 0 8 = 0xFF#8 := by decide +kernel

/-- No two rows have the same opcode. -/
theorem opcodeTable_opcodes_nodup : (opcodeTable.map fun r => r.pattern.extractLsb' 0 8).Nodup := by decide +kernel

theorem Row.opcode_of_accepts {r : Row} {c : Word32} (hr : r ∈ opcodeTable) (h : r.accepts c = true) :
    r.pattern.extractLsb' 0 8 = c.extractLsb' 0 8 := by
  rw [← beq_iff_eq.mp h, BitVec.extractLsb'_and, opcodeTable_mask_opcode r hr]
  exact BitVec.and_allOnes

theorem position_eq_of_opcode {i j : Fin opcodeTable.length}
    (h : opcodeTable[i].pattern.extractLsb' 0 8 = opcodeTable[j].pattern.extractLsb' 0 8) : i = j := by
  have hij := opcodeTable_opcodes_nodup.getElem_inj_iff (i := i) (j := j) (hi := by simp) (hj := by simp)
  exact Fin.ext (hij.mp (by simpa using h))

theorem row_eq_of_opcode {r q : Row} (hr : r ∈ opcodeTable) (hq : q ∈ opcodeTable)
    (h : r.pattern.extractLsb' 0 8 = q.pattern.extractLsb' 0 8) : r = q :=
  List.inj_on_of_nodup_map opcodeTable_opcodes_nodup hr hq h

/-- A row by row comparison of the mask with the command that the row builds: the mask keeps the high bits of a
selector, whose being zero is its range check, and the whole of a field that the command's word leaves zero. -/
theorem Row.accepts_word_iff : ∀ r ∈ opcodeTable, ∀ f : Fields,
    r.accepts f.word = true ↔ (r.build f).wellFormed = true ∧ f.word = encode (r.build f) := by
  have wholeOpcode : ∀ v : BitVec 8, v &&& 255#8 = v := fun _ => BitVec.and_allOnes
  have wholeReserved : ∀ v : BitVec 3, v &&& 7#3 = v := fun _ => BitVec.and_allOnes
  have wholeSelector : ∀ v : Sel, v &&& 15#4 = v := fun _ => BitVec.and_allOnes
  rintro r hr ⟨opcode, m, reserved, rd, ra, rb, len⟩
  rw [Row.accepts_word]
  fin_cases hr
  all_goals
    simp [Fields.and, Fields.ofWord, Instr.wellFormed, encode, assemble_eq_word, Sel.isW_iff, Sel.isSlot_iff,
      wholeOpcode, wholeReserved, wholeSelector] <;> tauto

/-- A row accepts a word exactly when its command is well formed and has that word (30_encoding.md R92, R95). -/
theorem Row.accepts_iff {r : Row} (hr : r ∈ opcodeTable) (c : Word32) :
    r.accepts c = true ↔ (r.build (Fields.ofWord c)).wellFormed = true ∧ c = encode (r.build (Fields.ofWord c)) := by
  simpa using Row.accepts_word_iff r hr (Fields.ofWord c)

/-- The row of an opcode (30_encoding.md R95). -/
def rowFor (op : BitVec 8) : Option Row :=
  opcodeTable.find? fun r => r.pattern.extractLsb' 0 8 == op

theorem encode_opcode (i : Instr) : Laws.EncodedOpcode.Statement i := by
  cases i <;> exact ⟨assemble_opcode .., assemble_reserved ..⟩

/-- Every command has a row, which builds it again from its word even where a selector is out of range. -/
theorem rowFor_opcodeOf (i : Instr) :
    ∃ r, rowFor (opcodeOf i) = some r ∧ r.build (Fields.ofWord (encode i)) = i := by
  cases i <;> exact ⟨_, rfl, by simp [encode, assemble_eq_word]⟩

/-- Two commands never share a word, not even with selectors out of range. -/
theorem encode_injective : Function.Injective encode := by
  intro i j h
  obtain ⟨r, hr, hi⟩ := rowFor_opcodeOf i
  obtain ⟨q, hq, hj⟩ := rowFor_opcodeOf j
  have hop : opcodeOf i = opcodeOf j := by rw [← (encode_opcode i).1, ← (encode_opcode j).1, h]
  obtain rfl : r = q := Option.some.inj (by rw [← hr, ← hq, hop])
  rw [← hi, ← hj, h]

end OpcodeTable

end Sys2Proof

/-! PROOF. The decoder answers the well-formed commands, each on its one word, and rejects every other word
(O1 to O4). -/

namespace Sys2Proof

section Decoder

/-- All that the decoder can do (30_encoding.md R95, R97). -/
theorem decode_cases (c : Word32) :
    (∃ r ∈ opcodeTable, r.accepts c = true ∧ decode c = .ok (r.build (Fields.ofWord c))) ∨
    ((∀ r ∈ opcodeTable, r.accepts c = false) ∧ decode c = .error (illegalCause c)) := by
  unfold decode
  cases hfind : opcodeTable.find? (fun r => r.accepts c) with
  | some r =>
    have haccepts : r.accepts c = true := by simpa using List.find?_some (p := fun q : Row => q.accepts c) hfind
    exact .inl ⟨r, List.mem_of_find?_eq_some hfind, haccepts, rfl⟩
  | none => exact .inr ⟨by simpa using hfind, rfl⟩

theorem decode_of_accepts {r : Row} {c : Word32} (hr : r ∈ opcodeTable) (h : r.accepts c = true) :
    decode c = .ok (r.build (Fields.ofWord c)) := by
  rcases decode_cases c with ⟨q, hq, hqc, hdecode⟩ | ⟨hreject, -⟩
  · rwa [row_eq_of_opcode hr hq ((Row.opcode_of_accepts hr h).trans (Row.opcode_of_accepts hq hqc).symm)]
  · simp [hreject r hr] at h

theorem decode_of_rejected {c : Word32} (h : ∀ r ∈ opcodeTable, r.accepts c = false) :
    decode c = .error (illegalCause c) := by
  rcases decode_cases c with ⟨r, hr, hrc, -⟩ | ⟨-, hdecode⟩
  · simp [h r hr] at hrc
  · exact hdecode

/-- The decoder answers exactly the well-formed commands, each on its one word (30_encoding.md R92, R95). -/
theorem decode_eq_ok_iff {c : Word32} {i : Instr} : decode c = .ok i ↔ i.wellFormed = true ∧ encode i = c := by
  constructor
  · intro h
    rcases decode_cases c with ⟨r, hr, hrc, hdecode⟩ | ⟨-, hdecode⟩
    · obtain rfl : r.build (Fields.ofWord c) = i := Except.ok.inj (hdecode.symm.trans h)
      obtain ⟨hwf, hword⟩ := (Row.accepts_iff hr c).mp hrc
      exact ⟨hwf, hword.symm⟩
    · simp [h] at hdecode
  · rintro ⟨hwf, rfl⟩
    obtain ⟨r, hr, hbuild⟩ := rowFor_opcodeOf i
    have hmem : r ∈ opcodeTable := List.mem_of_find?_eq_some hr
    have haccepts : r.accepts (encode i) = true := (Row.accepts_iff hmem _).mpr (by simp [hbuild, hwf])
    rw [decode_of_accepts hmem haccepts, hbuild]

/-- The cause, once the opcode is known and the reserved bits are zero (30_encoding.md R97). -/
theorem illegalCause_eq {c : Word32} {r : Row} (hr : rowFor (c.extractLsb' 0 8) = some r)
    (hreserved : c.extractLsb' 9 3 = 0#3) :
    illegalCause c =
      if c.getLsbD 8 && r.mask.getLsbD 8 then .modulusBit
      else if unusedNibble r.mask c 12 || unusedNibble r.mask c 16 || unusedNibble r.mask c 20
          || (r.mask.getLsbD 24 && c.extractLsb' 24 8 != 0#8) then .unusedField
      else .selectorRange := by
  unfold rowFor at hr
  simp [illegalCause, hr, hreserved]

/-- The word of a command leaves every field zero that its row masks wholly, so only a selector can make it illegal. -/
theorem illegalCause_encode (i : Instr) : illegalCause (encode i) = .selectorRange := by
  obtain ⟨hop, hreserved⟩ := encode_opcode i
  cases i
  all_goals
    rw [illegalCause_eq (by rw [hop]; rfl) hreserved]
    simp [encode, assemble_eq_word, unusedNibble, Fields.word_slices]

theorem decode_encode_of_not_wellFormed {i : Instr} (h : i.wellFormed = false) :
    decode (encode i) = .error .selectorRange := by
  rcases decode_cases (encode i) with ⟨r, -, -, hdecode⟩ | ⟨-, hdecode⟩
  · obtain ⟨hwf, hword⟩ := decode_eq_ok_iff.mp hdecode
    rw [encode_injective hword, h] at hwf
    contradiction
  · rw [hdecode, illegalCause_encode]

/-- Settles O1: the row of the command's opcode accepts its word and builds the command again. -/
theorem decodeInvertsEncode : Obligations.DecodeInvertsEncode := fun _ hwf => decode_eq_ok_iff.mpr ⟨hwf, rfl⟩

/-- Settles O2: the row that accepts the word leaves no field of it unread. -/
theorem encodeInvertsDecode : Obligations.EncodeInvertsDecode := fun _ _ h => decode_eq_ok_iff.mp h

/-- Settles O3: rows that accept one word have one opcode; encoding is one to one, so no row can give an ill-formed
command's word another meaning. -/
theorem tableIsUnambiguousAndChecksSelectors : Obligations.TableIsUnambiguousAndChecksSelectors := by
  refine ⟨fun c i j hi hj => position_eq_of_opcode ?_, fun i => decode_encode_of_not_wellFormed⟩
  have hopi := Row.opcode_of_accepts (List.getElem_mem _) hi
  have hopj := Row.opcode_of_accepts (List.getElem_mem _) hj
  exact hopi.trans hopj.symm

/-- Settles O4: each of the six words is the encoding of its well-formed command. -/
theorem workedWordsDecode : Obligations.WorkedWordsDecode := by
  simp only [Obligations.WorkedWordsDecode, decode_eq_ok_iff]
  decide

end Decoder

end Sys2Proof

/-! PROOF. What an illegal command word does to the machine (O6). -/

namespace Sys2Proof.Machine

section IllegalWords

/-- A write of `CMD` on an idle core is an acceptance (20_memory.md R64). -/
theorem memWrite_cmd {s : State} (v : Word32) (hidle : s.seq = .idle) : s.memWrite 0x004 v = s.accept v := by
  simp [State.memWrite, State.busy, hidle]

/-- Settles O6: the word is accepted, the decoder rejects it, and the engine's turn raises `IllegalCommand`. -/
theorem illegalWordOnlyReports : Obligations.IllegalWordOnlyReports := by
  intro s c hreject hidle hagenda
  rw [memWrite_cmd c hidle]
  have hstep : step (s.accept c) = .next ((s.accept c).raise .illegalCommand) := by
    rw [step_engine (s.accept c) hagenda]
    exact engineTurn_illegal (s.accept c) (illegalCause c) rfl (decode_of_rejected hreject)
  exact ⟨rfl, rfl, _, hstep, raise_endsWith _ _, rfl, rfl⟩

end IllegalWords

end Sys2Proof.Machine

/-! PROOF. The two shared shapes of the modular commands as completions and errors, and with them `FADD`, `FSUB`, `FMUL`
and `FEQ` (O13, O14, O15, O19). -/

namespace Sys2Proof.Machine

section ModularCommands

variable {c : Instr} {m : Modulus} {d i j : Fin 8} {s : State}

/-- A completion whose write is one value of 256 bits. -/
theorem writesW_writeW_complete (s : State) (d : Fin 8) {v : Nat} (hv : v < 2 ^ 256) :
    WritesW d v s (s.writeW d (BitVec.ofNat 256 v)).complete := by
  refine ⟨?_, fun j hj => ?_, keeps_complete s _ _ (keeps_writeW s d _)⟩
  · simpa using hv
  · exact (bank_get_set s.w d j _).trans (if_neg hj)

/-- A residue fits a register (40_field_arithmetic.md R128). -/
theorem lt_two_pow_of_lt_modulus {v : Nat} (hv : v < modulus m) : v < 2 ^ 256 := hv.trans (modulus_bounds m).2

theorem modBinary_completesTo {f : Nat → Nat → Nat}
    (hexec : exec c s = modBinary m (selOf d) (selOf i) (selOf j) s f)
    (hred : s.w[i].toNat < modulus m ∧ s.w[j].toNat < modulus m)
    (hlt : f s.w[i].toNat s.w[j].toNat < modulus m) :
    CompletesTo c s (WritesW d (f s.w[i].toNat s.w[j].toNat) s) := by
  rw [modBinary_selOf, if_pos hred] at hexec
  exact completesTo_of_ok c s _ _ hexec (writesW_writeW_complete s d (lt_two_pow_of_lt_modulus hlt))

theorem modBinary_raises {f : Nat → Nat → Nat}
    (hexec : exec c s = modBinary m (selOf d) (selOf i) (selOf j) s f)
    (hred : ¬(s.w[i].toNat < modulus m ∧ s.w[j].toNat < modulus m)) : Raises c s .invalidOperand := by
  rw [modBinary_selOf, if_neg hred] at hexec
  exact raises_of_error c s _ hexec

theorem modUnary_completesTo {f : Nat → Checked Nat} {r : Nat}
    (hexec : exec c s = modUnary m (selOf d) (selOf i) s f) (hred : s.w[i].toNat < modulus m)
    (hf : f s.w[i].toNat = .ok r) (hlt : r < modulus m) : CompletesTo c s (WritesW d r s) := by
  rw [modUnary_selOf, if_pos hred, hf, checked_ok_bind] at hexec
  exact completesTo_of_ok c s _ _ hexec (writesW_writeW_complete s d (lt_two_pow_of_lt_modulus hlt))

/-- A unary modular command raises on an unreduced operand, and on a reduced one for which its function raises. -/
theorem modUnary_raises {f : Nat → Checked Nat} (hexec : exec c s = modUnary m (selOf d) (selOf i) s f)
    (hf : s.w[i].toNat < modulus m → f s.w[i].toNat = .error .invalidOperand) : Raises c s .invalidOperand := by
  rw [modUnary_selOf] at hexec
  split at hexec
  · next hred =>
    rw [hf hred, checked_error_bind] at hexec
    exact raises_of_error c s _ hexec
  · exact raises_of_error c s _ hexec

/-- All that `FEQ` can do (40_field_arithmetic.md R121, R127). -/
theorem execFeq_selOf (m : Modulus) (i j : Fin 8) (s : State) :
    execFeq m (selOf i) (selOf j) s =
      if s.w[i].toNat < modulus m ∧ s.w[j].toNat < modulus m then
        s.conclude (.ok (s.setEq (s.w[i].toNat == s.w[j].toNat)))
      else s.conclude (.error .invalidOperand) := by
  unfold execFeq reducedOperand
  simp only [wSel_selOf, checked_ok_bind, Fin.getElem_fin]
  by_cases ha : s.w[i.val].toNat < modulus m <;> by_cases hb : s.w[j.val].toNat < modulus m <;> simp [ha, hb]

end ModularCommands

section FieldArithmetic

variable {m a b : Nat}

/-- The sum of residues takes one subtraction of the modulus at most (40_field_arithmetic.md R122). -/
theorem addMod_of_lt (ha : a < m) (hb : b < m) : addMod m a b = if a + b < m then a + b else a + b - m := by
  unfold addMod
  split
  · next hlt => exact Nat.mod_eq_of_lt hlt
  · next hge => rw [Nat.mod_eq_sub_mod (Nat.le_of_not_lt hge), Nat.mod_eq_of_lt (by omega)]

/-- The difference of residues takes one addition of the modulus at most (40_field_arithmetic.md R123). -/
theorem subMod_of_lt (ha : a < m) (hb : b < m) : subMod m a b = if b ≤ a then a - b else a + m - b := by
  have hcast := residue_cast ((a : Int) - b) m (by omega)
  unfold subMod
  split
  · rw [Int.emod_eq_of_lt (by omega) (by omega)] at hcast
    omega
  · rw [← Int.add_emod_right, Int.emod_eq_of_lt (by omega) (by omega)] at hcast
    omega

end FieldArithmetic

section FieldCommands

/-- Settles O13: the shape of a binary command at the sum, which takes at most one subtraction. -/
theorem faddWritesTheSum : Obligations.FaddWritesTheSum := by
  intro m d i j s
  refine ⟨fun hred => ?_, modBinary_raises rfl⟩
  rw [← addMod_of_lt hred.1 hred.2]
  exact modBinary_completesTo rfl hred (Nat.mod_lt _ (modulus_pos m))

/-- Settles O14: the shape of a binary command at the difference, which takes at most one addition. -/
theorem fsubWritesTheDifference : Obligations.FsubWritesTheDifference := by
  intro m d i j s
  refine ⟨fun hred => ?_, modBinary_raises rfl⟩
  rw [← subMod_of_lt hred.1 hred.2]
  exact modBinary_completesTo rfl hred (residue_lt _ _ (modulus_pos m))

/-- Settles O15: the shape of a binary command at the product. -/
theorem fmulWritesTheProduct : Obligations.FmulWritesTheProduct := fun m _ _ _ _ =>
  ⟨fun hred => modBinary_completesTo (f := mulMod (modulus m)) rfl hred (Nat.mod_lt _ (modulus_pos m)),
    modBinary_raises rfl⟩

/-- Settles O19: all that `FEQ` can do is to set the one flag or to raise. -/
theorem feqWritesOnlyTheEqFlag : Obligations.FeqWritesOnlyTheEqFlag := by
  intro m i j s
  refine ⟨fun hred => ?_, fun hred => ?_⟩
  · have hexec := (execFeq_selOf m i j s).trans (if_pos hred)
    exact completesTo_of_ok _ s _ _ hexec ⟨by simp [beq_eq_decide], keeps_complete s _ _ (keeps_setEq s _)⟩
  · exact raises_of_error _ s _ ((execFeq_selOf m i j s).trans (if_neg hred))

end FieldCommands

end Sys2Proof.Machine

/-! PROOF. Fermat's power is the inverse for both moduli, and `FINV` writes it (O17, O18). -/

namespace Sys2Proof.Machine

section Inversion

/-- Both moduli are primes (93_implementation_defined.md G9). -/
theorem modulus_prime (m : Modulus) : (modulus m).Prime := by
  cases m with
  | p => exact p_prime
  | n => exact n_prime

theorem checkedInv_zero (m : Modulus) : checkedInv m 0 = .error .invalidOperand := if_pos rfl

theorem checkedInv_of_pos (m : Modulus) {a : Nat} (ha : 0 < a) : checkedInv m a = .ok (inv a (modulus m)) :=
  if_neg ha.ne'

/-- Fermat: the power `M - 2` of a non-zero residue inverts it (40_field_arithmetic.md R126). -/
theorem mul_inv_mod_modulus (m : Modulus) {a : Nat} (hpos : 0 < a) (hlt : a < modulus m) :
    a * inv a (modulus m) % modulus m = 1 := by
  have hcoprime : a.Coprime (modulus m) := (Nat.coprime_of_lt_prime hpos.ne' hlt (modulus_prime m)).symm
  have hfermat : a ^ (modulus m - 1) ≡ 1 [MOD modulus m] :=
    Nat.totient_prime (modulus_prime m) ▸ Nat.ModEq.pow_totient hcoprime
  have hexp : modulus m - 2 + 1 = modulus m - 1 := by have := one_lt_modulus m; omega
  calc a * inv a (modulus m) % modulus m
      = a ^ (modulus m - 1) % modulus m := by rw [inv_eq, Nat.mul_mod_mod, ← pow_succ', hexp]
    _ = 1 := Eq.trans hfermat (Nat.mod_eq_of_lt (one_lt_modulus m))

/-- Settles O17: the shape of a unary command at the checked inverse, which is the power. -/
theorem finvWritesTheFermatPower : Obligations.FinvWritesTheFermatPower := by
  intro m d i s
  refine ⟨fun ⟨hpos, hlt⟩ => ?_, fun hbad => modUnary_raises rfl fun hlt => ?_⟩
  · rw [← inv_eq]
    exact modUnary_completesTo rfl hlt (checkedInv_of_pos m hpos) (inv_lt _ _ (modulus_pos m))
  · rw [hbad.resolve_right (Nat.not_le.mpr hlt), checkedInv_zero]

/-- Settles O18: by Fermat's theorem; zero is no inverse, since its product is zero. -/
theorem finvResultIsTheInverse : Obligations.FinvResultIsTheInverse := by
  intro m a hpos hlt
  have hmul := mul_inv_mod_modulus m hpos hlt
  refine ⟨Nat.pos_of_ne_zero fun hzero => ?_, inv_lt a _ (modulus_pos m), hmul⟩
  simp [hzero] at hmul

end Inversion

end Sys2Proof.Machine

/-! PROOF. The three paths to one product: `FMUL`, `MULW` with `BRED`, and the way through Montgomery form (O25). -/

namespace Sys2Proof.Machine

section ProductPaths

/-- Twice the width holds every product. -/
theorem toNat_ofNat_mul_toNat {k n : Nat} (hn : n = k * 2) (x y : BitVec k) :
    (BitVec.ofNat n (x.toNat * y.toNat)).toNat = x.toNat * y.toNat := by
  rw [hn, BitVec.toNat_ofNat, Nat.mod_eq_of_lt BitVec.toNat_mul_toNat_lt]

/-- `MULW` leaves the exact product in `ACC` (41_montgomery_barrett.md R143). -/
theorem mulw_completesTo (i j : Fin 8) (s : State) :
    CompletesTo (.mulw (selOf i) (selOf j)) s
      (fun t => t.acc.toNat = s.w[i].toNat * s.w[j].toNat ∧ Keeps s t [.acc]) := by
  have hexec : exec (.mulw (selOf i) (selOf j)) s =
      s.conclude (.ok (s.writeAcc (BitVec.ofNat 512 (s.w[i].toNat * s.w[j].toNat)))) := by
    simp [exec, execMulw]
  refine completesTo_of_ok _ s _ _ hexec ⟨?_, keeps_complete s _ _ (keeps_writeAcc s _)⟩
  rw [State.complete_acc, State.writeAcc_acc, toNat_ofNat_mul_toNat (by rfl)]

/-- `BRED` leaves the residue of `ACC` (41_montgomery_barrett.md R144). -/
theorem bred_completesTo (m : Modulus) (d : Fin 8) (s : State) :
    CompletesTo (.bred m (selOf d)) s (WritesW d (s.acc.toNat % modulus m) s) := by
  have hexec : exec (.bred m (selOf d)) s =
      s.conclude (.ok (s.writeW d (BitVec.ofNat 256 (s.acc.toNat % modulus m)))) := by
    simp [exec, execBred]
  have hlt : s.acc.toNat % modulus m < modulus m := Nat.mod_lt _ (modulus_pos m)
  exact completesTo_of_ok _ s _ _ hexec (writesW_writeW_complete s d (lt_two_pow_of_lt_modulus hlt))

variable {m : Modulus} {i j : Fin 8} {s : State}

/-- `MMUL` leaves the Montgomery product (41_montgomery_barrett.md R147). -/
theorem mmul_completesTo (d : Fin 8) (hi : s.w[i].toNat < modulus m) (hj : s.w[j].toNat < modulus m) :
    CompletesTo (.mmul m (selOf d) (selOf i) (selOf j)) s (WritesW d (montMul m s.w[i].toNat s.w[j].toNat) s) :=
  modBinary_completesTo rfl ⟨hi, hj⟩ (Nat.mod_lt _ (modulus_pos m))

/-- `MTOM` leaves the Montgomery form (41_montgomery_barrett.md R148). -/
theorem mtom_completesTo (d : Fin 8) (hi : s.w[i].toNat < modulus m) :
    CompletesTo (.mtom m (selOf d) (selOf i)) s (WritesW d (toMont m s.w[i].toNat) s) :=
  modUnary_completesTo rfl hi rfl (Nat.mod_lt _ (modulus_pos m))

/-- `MFROM` leaves what stands in Montgomery form (41_montgomery_barrett.md R149). -/
theorem mfrom_completesTo (d : Fin 8) (hi : s.w[i].toNat < modulus m) :
    CompletesTo (.mfrom m (selOf d) (selOf i)) s (WritesW d (fromMont m s.w[i].toNat) s) :=
  modUnary_completesTo rfl hi rfl (Nat.mod_lt _ (modulus_pos m))

/-- The Montgomery product of two forms stands for the product: each factor `R` meets one `Rinv`
(41_montgomery_barrett.md R140). -/
theorem fromMont_montMul_toMont (m : Modulus) (a b : Nat) :
    fromMont m (montMul m (toMont m a) (toMont m b)) = a * b % modulus m := by
  have hcancel : Config.radix * radixInv m ≡ 1 [MOD modulus m] :=
    (radix_radixInv m).trans (Nat.mod_eq_of_lt (one_lt_modulus m)).symm
  have hforms : toMont m a * toMont m b * radixInv m ≡
      a * Config.radix * (b * Config.radix) * radixInv m [MOD modulus m] :=
    ((Nat.mod_modEq _ _).mul (Nat.mod_modEq _ _)).mul_right _
  have hproduct : montMul m (toMont m a) (toMont m b) * radixInv m ≡ a * b [MOD modulus m] := calc
    _ ≡ a * Config.radix * (b * Config.radix) * radixInv m * radixInv m [MOD modulus m] :=
      ((Nat.mod_modEq _ _).trans hforms).mul_right _
    _ = a * b * (Config.radix * radixInv m) * (Config.radix * radixInv m) := by ring
    _ ≡ a * b * 1 * 1 [MOD modulus m] := (hcancel.mul_left _).mul hcancel
    _ = a * b := by ring
  exact hproduct

/-- `MULW` and `BRED` complete and leave the residue of the product in the destination. -/
theorem mulw_bred_path (m : Modulus) (d i j : Fin 8) (s : State) :
    ∃ t u, exec (.mulw (selOf i) (selOf j)) s = .next t ∧ EndsOk t ∧
      exec (.bred m (selOf d)) t = .next u ∧ EndsOk u ∧
      u.w[d].toNat = s.w[i].toNat * s.w[j].toNat % modulus m := by
  obtain ⟨t, ht, htOk, hacc, -⟩ := mulw_completesTo i j s
  obtain ⟨u, hu, huOk, hd, -⟩ := bred_completesTo m d t
  exact ⟨t, u, ht, htOk, hu, huOk, by rw [hd, hacc]⟩

/-- The four Montgomery commands complete and leave the residue of the product in the destination. That `wx` differs
from `wj` and `wy` is what keeps the second operand and the first form until they are read. -/
theorem montgomery_path (d : Fin 8) {x y : Fin 8} (hxy : x ≠ y) (hjx : j ≠ x) (hi : s.w[i].toNat < modulus m)
    (hj : s.w[j].toNat < modulus m) :
    ∃ a b c e, exec (.mtom m (selOf x) (selOf i)) s = .next a ∧ EndsOk a ∧
      exec (.mtom m (selOf y) (selOf j)) a = .next b ∧ EndsOk b ∧
      exec (.mmul m (selOf d) (selOf x) (selOf y)) b = .next c ∧ EndsOk c ∧
      exec (.mfrom m (selOf d) (selOf d)) c = .next e ∧ EndsOk e ∧
      e.w[d].toNat = s.w[i].toNat * s.w[j].toNat % modulus m := by
  have hform : ∀ v, toMont m v < modulus m := fun v => Nat.mod_lt _ (modulus_pos m)
  obtain ⟨a, ha, haOk, hax, hakeep, -⟩ := mtom_completesTo (m := m) x hi
  have haj : a.w[j] = s.w[j] := hakeep j hjx
  obtain ⟨b, hb, hbOk, hby, hbkeep, -⟩ := mtom_completesTo (m := m) (s := a) (i := j) y (haj ▸ hj)
  have hbx : b.w[x].toNat = toMont m s.w[i].toNat := by rw [hbkeep x hxy, hax]
  rw [haj] at hby
  obtain ⟨c, hc, hcOk, hcd, -⟩ :=
    mmul_completesTo (m := m) (s := b) (i := x) (j := y) d (hbx ▸ hform _) (hby ▸ hform _)
  have hcred : c.w[d].toNat < modulus m := hcd ▸ Nat.mod_lt _ (modulus_pos m)
  obtain ⟨e, he, heOk, hed, -⟩ := mfrom_completesTo (m := m) (s := c) (i := d) d hcred
  refine ⟨a, b, c, e, ha, haOk, hb, hbOk, hc, hcOk, he, heOk, ?_⟩
  rw [hed, hcd, hbx, hby, fromMont_montMul_toMont]

/-- Settles O25: each path ends in the residue of the exact product, which `FMUL` leaves (O15). -/
theorem threePathsToOneProduct : Obligations.ThreePathsToOneProduct := by
  intro m d i j s hi hj
  obtain ⟨v, hv, hvOk, hvd, -⟩ := (fmulWritesTheProduct m d i j s).1 ⟨hi, hj⟩
  refine ⟨v, hv, hvOk, ?_, fun x y hxy hjx => ?_⟩
  · obtain ⟨t, u, ht, htOk, hu, huOk, hud⟩ := mulw_bred_path m d i j s
    exact ⟨t, u, ht, htOk, hu, huOk, BitVec.eq_of_toNat_eq (hud.trans hvd.symm)⟩
  · obtain ⟨a, b, c, e, ha, haOk, hb, hbOk, hc, hcOk, he, heOk, hed⟩ := montgomery_path d hxy hjx hi hj
    exact ⟨a, b, c, e, ha, haOk, hb, hbOk, hc, hcOk, he, heOk, BitVec.eq_of_toNat_eq (hed.trans hvd.symm)⟩

end ProductPaths

end Sys2Proof.Machine

/-! PROOF. The commands of the Montgomery and Barrett units write the results that define them (O16, O20, O21, O22). -/

namespace Sys2Proof.Machine

section MontgomeryBarrettCommands

/-- Settles O16: the shape of a binary command at the Montgomery product. -/
theorem mmulWritesTheMontgomeryProduct : Obligations.MmulWritesTheMontgomeryProduct := fun _ d _ _ _ =>
  ⟨fun ⟨hi, hj⟩ => mmul_completesTo d hi hj, modBinary_raises rfl⟩

/-- Settles O20: the accumulator is twice as wide as an operand, so it holds the product exactly. -/
theorem mulwWritesTheExactProduct : Obligations.MulwWritesTheExactProduct := mulw_completesTo

/-- Settles O21: the residue fits the destination, and no operand is checked. -/
theorem bredWritesTheResidueOfAcc : Obligations.BredWritesTheResidueOfAcc := bred_completesTo

/-- Settles O22: both conversions have the shape of a unary command whose function never raises. -/
theorem mtomAndMfromConvert : Obligations.MtomAndMfromConvert := by
  intro m d i s
  refine ⟨fun hred => ⟨mtom_completesTo d hred, mfrom_completesTo d hred⟩, fun hbad => ?_⟩
  have hunreduced : ¬s.w[i].toNat < modulus m := Nat.not_lt.mpr hbad
  exact ⟨modUnary_raises rfl fun hlt => absurd hlt hunreduced, modUnary_raises rfl fun hlt => absurd hlt hunreduced⟩

end MontgomeryBarrettCommands

end Sys2Proof.Machine

/-! PROOF. The methods by which the two units reduce give the results that define their commands (O23, O24). -/

namespace Sys2Proof.Machine

section CorrectiveSubtraction

variable {m r k : Nat}

/-- A corrective subtraction stays in the residue class. -/
theorem correct_mod (m r : Nat) : correct m r % m = r % m := by
  unfold correct
  split
  · next hle => exact (Nat.mod_eq_sub_mod hle).symm
  · rfl

/-- A corrective subtraction takes one modulus off the bound, down to a single modulus. -/
theorem correct_lt (hk : 0 < k) (hr : r < (k + 1) * m) : correct m r < k * m := by
  rw [Nat.succ_mul] at hr
  unfold correct
  split
  · omega
  · next hlt => exact (Nat.lt_of_not_le hlt).trans_le (Nat.le_mul_of_pos_left m hk)

/-- Below twice the modulus one corrective subtraction reduces (41_montgomery_barrett.md R150). -/
theorem correct_eq_mod (hr : r < 2 * m) : correct m r = r % m := by
  have hlt : correct m r < m := by simpa using correct_lt Nat.one_pos hr
  rw [← correct_mod, Nat.mod_eq_of_lt hlt]

/-- Below three times the modulus two corrective subtractions reduce (41_montgomery_barrett.md R145). -/
theorem correct_correct_eq_mod (hr : r < 3 * m) : correct m (correct m r) = r % m := by
  rw [correct_eq_mod (correct_lt Nat.two_pos hr), correct_mod]

end CorrectiveSubtraction

section Barrett

/-- The Barrett estimate of `x / m` from `q1 = x / a` and `mu = a * b / m`. In 41_montgomery_barrett.md R145 the shifts
are `a = 2^255` and `b = 2^257`; its bounds need of them only `a ≤ m` and `x < a * b`. -/
def quotientEstimate (a b m x : Nat) : Nat := x / a * (a * b / m) / b

variable {a b m x : Nat}

/-- The estimate is never too large: each of its three divisions rounds down. -/
theorem quotientEstimate_mul_le (ha : 0 < a) (hb : 0 < b) : quotientEstimate a b m x * m ≤ x := by
  refine Nat.le_of_mul_le_mul_right ?_ (Nat.mul_pos ha hb)
  calc quotientEstimate a b m x * m * (a * b)
      = quotientEstimate a b m x * b * (a * m) := by ring
    _ ≤ x / a * (a * b / m) * (a * m) := Nat.mul_le_mul_right _ (Nat.div_mul_le_self _ _)
    _ = x / a * a * (a * b / m * m) := by ring
    _ ≤ x * (a * b) := Nat.mul_le_mul (Nat.div_mul_le_self _ _) (Nat.div_mul_le_self _ _)

/-- The estimate is too small by two at most: with `q1 = x / a < b` and `mu = a * b / m ≤ b`, the rounding of the first
two quotients costs `q1 + mu + 1 ≤ 2 * b` in their product, and that of the third less than `b`. -/
theorem lt_quotientEstimate_add_three_mul (ha : 0 < a) (hb : 0 < b) (hm : a ≤ m) (hx : x < a * b) :
    x < (quotientEstimate a b m x + 3) * m := by
  have hpos : 0 < m := ha.trans_le hm
  have hq1 : x / a < b := Nat.div_lt_of_lt_mul hx
  have hmu : a * b / m ≤ b := Nat.div_le_of_le_mul (Nat.mul_le_mul_right b hm)
  have hq3 : x / a * (a * b / m) < (quotientEstimate a b m x + 1) * b := by
    rw [Nat.mul_comm (_ + 1) b]
    exact Nat.lt_mul_div_succ _ hb
  have hfactors : (x / a + 1) * (a * b / m + 1) ≤ (quotientEstimate a b m x + 3) * b := calc
    _ = x / a * (a * b / m) + (x / a + a * b / m + 1) := by ring
    _ ≤ (quotientEstimate a b m x + 1) * b + 2 * b := by omega
    _ = (quotientEstimate a b m x + 3) * b := by ring
  refine Nat.lt_of_mul_lt_mul_right (a := a * b) ?_
  calc x * (a * b)
      < a * (x / a + 1) * (m * (a * b / m + 1)) :=
        Nat.mul_lt_mul'' (Nat.lt_mul_div_succ x ha) (Nat.lt_mul_div_succ (a * b) hpos)
    _ = (x / a + 1) * (a * b / m + 1) * (a * m) := by ring
    _ ≤ (quotientEstimate a b m x + 3) * b * (a * m) := Nat.mul_le_mul_right _ hfactors
    _ = (quotientEstimate a b m x + 3) * m * (a * b) := by ring

theorem two_pow_512_eq : 2 ^ 512 = 2 ^ 255 * 2 ^ 257 := by rw [← Nat.pow_add]

/-- The Barrett method corrects twice what its estimate leaves (41_montgomery_barrett.md R145). -/
theorem barrettReduce_eq (m x : Nat) :
    barrettReduce m x = correct m (correct m (x - quotientEstimate (2 ^ 255) (2 ^ 257) m x * m)) := by
  rw [barrettReduce, barrettMu, two_pow_512_eq, quotientEstimate]

/-- Settles O23: the estimate leaves a remainder below three times the modulus, which two subtractions reduce. -/
theorem barrettMethodReduces : Obligations.BarrettMethodReduces := by
  intro m x hx
  rw [two_pow_512_eq] at hx
  have hlow : 2 ^ 255 ≤ modulus m := (modulus_bounds m).1
  have hle := quotientEstimate_mul_le (m := modulus m) (x := x) (Nat.two_pow_pos 255) (Nat.two_pow_pos 257)
  have hlt := lt_quotientEstimate_add_three_mul (Nat.two_pow_pos 255) (Nat.two_pow_pos 257) hlow hx
  rw [Nat.add_mul] at hlt
  rw [barrettReduce_eq, correct_correct_eq_mod (Nat.sub_lt_left_of_lt_add hle hlt)]
  rw [Nat.mul_comm] at hle ⊢
  exact Nat.sub_mul_mod hle

end Barrett

section MontgomeryReduction

/-- The multiple of the modulus that the Montgomery reduction adds (41_montgomery_barrett.md R150). -/
def montMultiplier (m : Modulus) (t : Nat) : Nat := t % Config.radix * negInv m % Config.radix

variable {m : Modulus} {t : Nat}

theorem radix_pos : 0 < Config.radix := Nat.two_pow_pos 256

theorem montReduce_eq (m : Modulus) (t : Nat) :
    montReduce m t = correct (modulus m) ((t + montMultiplier m t * modulus m) / Config.radix) := rfl

/-- The multiple clears the low half: `u = t * M'` and `M' * M = -1` modulo `R` (41_montgomery_barrett.md R141). -/
theorem radix_dvd_add_montMultiplier (m : Modulus) (t : Nat) :
    Config.radix ∣ t + montMultiplier m t * modulus m := by
  have hmultiplier : montMultiplier m t ≡ t * negInv m [MOD Config.radix] :=
    (Nat.mod_modEq _ _).trans ((Nat.mod_modEq _ _).mul_right _)
  have hinverse : negInv m * modulus m + 1 ≡ 0 [MOD Config.radix] :=
    (negInv_spec m).trans (Nat.zero_mod _).symm
  have hsum : t + montMultiplier m t * modulus m ≡ 0 [MOD Config.radix] := calc
    _ ≡ t + t * negInv m * modulus m [MOD Config.radix] := (hmultiplier.mul_right _).add_left _
    _ = t * (negInv m * modulus m + 1) := by ring
    _ ≡ t * 0 [MOD Config.radix] := hinverse.mul_left t
    _ = 0 := Nat.mul_zero t
  exact Nat.modEq_zero_iff_dvd.mp hsum

/-- One subtraction is enough: `t` and the multiple are each below `R * M` (41_montgomery_barrett.md R150). -/
theorem add_montMultiplier_div_lt (ht : t < Config.radix * modulus m) :
    (t + montMultiplier m t * modulus m) / Config.radix < 2 * modulus m := by
  have hmultiple : montMultiplier m t * modulus m < Config.radix * modulus m :=
    Nat.mul_lt_mul_of_pos_right (Nat.mod_lt _ radix_pos) (modulus_pos m)
  refine Nat.div_lt_of_lt_mul ?_
  rw [Nat.mul_left_comm, Nat.two_mul]
  exact Nat.add_lt_add ht hmultiple

/-- The exact quotient by `R` is `t * Rinv` modulo `M`, since the multiple of `M` adds nothing
(41_montgomery_barrett.md R140). -/
theorem add_montMultiplier_div_modEq (m : Modulus) (t : Nat) :
    (t + montMultiplier m t * modulus m) / Config.radix ≡ t * radixInv m [MOD modulus m] := by
  have hcancel : 1 ≡ Config.radix * radixInv m [MOD modulus m] :=
    (Nat.mod_eq_of_lt (one_lt_modulus m)).trans (radix_radixInv m).symm
  have hexact := Nat.div_mul_cancel (radix_dvd_add_montMultiplier m t)
  have hclass : t + montMultiplier m t * modulus m ≡ t [MOD modulus m] := Nat.add_mul_mod_self_right _ _ _
  generalize (t + montMultiplier m t * modulus m) / Config.radix = v at hexact ⊢
  calc v
      = v * 1 := (Nat.mul_one v).symm
    _ ≡ v * (Config.radix * radixInv m) [MOD modulus m] := hcancel.mul_left v
    _ = (t + montMultiplier m t * modulus m) * radixInv m := by rw [← Nat.mul_assoc, hexact]
    _ ≡ t * radixInv m [MOD modulus m] := hclass.mul_right _

/-- The Montgomery reduction of every `t` below `R * M` (41_montgomery_barrett.md R150). -/
theorem montReduce_eq_mod (ht : t < Config.radix * modulus m) : montReduce m t = t * radixInv m % modulus m := by
  rw [montReduce_eq, correct_eq_mod (add_montMultiplier_div_lt ht)]
  exact add_montMultiplier_div_modEq m t

/-- Settles O24: a product of residues is below `R * M`, because `M` is below `R`. -/
theorem montgomeryMethodMultiplies : Obligations.MontgomeryMethodMultiplies := fun m _ _ ha hb =>
  montReduce_eq_mod (Nat.mul_lt_mul'' (ha.trans (modulus_bounds m).2) hb)

end MontgomeryReduction

end Sys2Proof.Machine

/-! PROOF. The operand check and the write that the point commands share; `PADD`, `PDBL`, `PMUL` and `PLDG`
(O26, O27, O28, O30). -/

namespace Sys2Proof.Machine

section PointCommands

variable {c : Instr} {s : State} {d : Fin 4} {q : CurvePoint}

/-- A completion whose write is one point in canonical form and its `INF` (10_state.md R25). -/
theorem writesPoint_pointResult_complete (s : State) (d : Fin 4) (q : CurvePoint) :
    WritesPoint d q s (s.pointResult d q).complete := by
  refine ⟨?_, fun j hj => ?_, ?_, keeps_complete s _ _ (keeps_pointResult s d q)⟩
  · exact (bank_get_set s.pt d d _).trans (if_pos rfl)
  · exact (bank_get_set s.pt d j _).trans (if_neg hj)
  · simp [beq_eq_decide]

theorem pointResult_completesTo (hexec : exec c s = s.conclude (.ok (s.pointResult d q))) :
    CompletesTo c s (WritesPoint d q s) :=
  completesTo_of_ok c s _ _ hexec (writesPoint_pointResult_complete s d q)

theorem pointOperand_of_valid {r : PointReg} (h : r.point.valid = true) : pointOperand r = .ok r.point :=
  (pointOperand_ok r _).mpr ⟨h, rfl⟩

theorem pointOperand_of_not_valid {r : PointReg} (h : r.point.valid = false) :
    pointOperand r = .error .pointNotOnCurve :=
  (pointOperand_error r _).mpr ⟨h, rfl⟩

/-- A command that checks one point operand and writes a function of it does one or the other
(42_point_arithmetic.md R164). -/
theorem pointUnary_ends {r : PointReg} {f : CurvePoint → CurvePoint}
    (hexec : exec c s = s.conclude (pointOperand r >>= fun p => .ok (s.pointResult d (f p)))) :
    (r.point.valid = true → CompletesTo c s (WritesPoint d (f r.point) s)) ∧
    (r.point.valid = false → Raises c s .pointNotOnCurve) := by
  refine ⟨fun hvalid => ?_, fun hbad => ?_⟩
  · rw [pointOperand_of_valid hvalid, checked_ok_bind] at hexec
    exact pointResult_completesTo hexec
  · rw [pointOperand_of_not_valid hbad, checked_error_bind] at hexec
    exact raises_of_error c s _ hexec

/-- Settles O27: the shape of a command with one point operand, at the double. -/
theorem pdblWritesTheDouble : Obligations.PdblWritesTheDouble := fun d i s =>
  pointUnary_ends (c := .pdbl (selOf d) (selOf i)) (f := pdbl) (by simp [exec, execPdbl])

/-- Settles O28: the shape of a command with one point operand, at the multiple by a scalar that no check reads. -/
theorem pmulWritesTheScalarMultiple : Obligations.PmulWritesTheScalarMultiple := fun d i j s =>
  pointUnary_ends (c := .pmul (selOf d) (selOf i) (selOf j)) (f := pmul s.w[j].toNat) (by simp [exec, execPmul])

/-- What `PADD` does once its selectors are read: two checks, the first operand's before the second's, and one write
(42_point_arithmetic.md R166). -/
theorem exec_padd_selOf (d i j : Fin 4) (s : State) :
    exec (.padd (selOf d) (selOf i) (selOf j)) s =
      s.conclude (pointOperand s.pt[i] >>= fun p => pointOperand s.pt[j] >>= fun q =>
        .ok (s.pointResult d (padd p q))) := by
  simp [exec, execPadd]

/-- Settles O26: with a valid first operand `PADD` is a command with one point operand, the second; the other first
operands raise. -/
theorem paddWritesTheSumOfPoints : Obligations.PaddWritesTheSumOfPoints := by
  intro d i j s p q
  have hexec := exec_padd_selOf d i j s
  cases hp : p.valid with
  | true =>
    rw [pointOperand_of_valid hp, checked_ok_bind] at hexec
    obtain ⟨hcompletes, hraises⟩ := pointUnary_ends hexec
    exact ⟨fun hvalid => hcompletes hvalid.2,
      fun hbad => hraises (Bool.eq_false_of_not_eq_true fun hq => hbad ⟨rfl, hq⟩)⟩
  | false =>
    rw [pointOperand_of_not_valid hp, checked_error_bind] at hexec
    exact ⟨fun hvalid => absurd hvalid.1 (by simp), fun _ => raises_of_error _ s _ hexec⟩

/-- Settles O30: the write alone, of the finite base point. -/
theorem pldgLoadsTheBasePoint : Obligations.PldgLoadsTheBasePoint := by
  intro d s
  obtain ⟨t, hexec, hends, hwrites⟩ :=
    pointResult_completesTo (c := .pldg (selOf d)) (s := s) (d := d) (q := basePoint) (by simp [exec, execPldg])
  have ⟨hpoint, _, hflags, _⟩ := hwrites
  exact ⟨t, hexec, hends, hwrites, by rw [hpoint]; rfl, by rw [hflags]; rfl⟩

end PointCommands

end Sys2Proof.Machine

/-! PROOF. Point validation, and `PCHK`, which does nothing else (O29). -/

namespace Sys2Proof.Machine

section PointValidation

/-- Validation names the curve exactly for the pairs off it, unreduced ones among them (42_point_arithmetic.md R176). -/
theorem validate_pointNotOnCurve (x y : Nat) : validate x y = .pointNotOnCurve ↔ onCurve x y = false := by
  unfold validate onCurve
  cases coordsReduced x y with
  | false => simp
  | true =>
    cases curveEquation x y with
    | false => simp
    | true => by_cases hgroup : pmul Config.n (.affine x y) = .inf <;> simp [hgroup]

theorem validated_of_not_onCurve {x y : Nat} (h : onCurve x y = false) :
    validated x y = .error .pointNotOnCurve := by
  rw [validated, (validate_pointNotOnCurve x y).mpr h]

/-- What `PCHK` does, its selector read: the check for infinity, then validation (42_point_arithmetic.md R177). -/
theorem exec_pchk_selOf (i : Fin 4) (s : State) :
    exec (.pchk (selOf i)) s =
      s.conclude (raiseIf (s.pt[i].inf = true) .pointNotOnCurve >>= fun _ =>
        validated s.pt[i].x.toNat s.pt[i].y.toNat >>= fun _ => .ok s) := by
  simp [exec, execPchk]

/-- Settles O29: a finite register ends as the validation of its pair does, an infinite one before it. -/
theorem pchkValidatesAndWritesNothing : Obligations.PchkValidatesAndWritesNothing := by
  intro i s r onC inGroup
  have hexec := exec_pchk_selOf i s
  cases hinf : r.inf with
  | true =>
    rw [(raiseIf_error _ _ _).mpr ⟨hinf, rfl⟩, checked_error_bind] at hexec
    exact ⟨fun hfinite => absurd hfinite.1 (by simp), fun _ => raises_of_error _ s _ hexec⟩
  | false =>
    rw [(raiseIf_ok _ _).mpr (ne_true_of_eq_false hinf), checked_ok_bind] at hexec
    refine ⟨fun ⟨_, hcurve, hgroup⟩ => ?_, fun hbad => ?_⟩
    · rw [(validated_ok _ _).mpr ((validate_valid _ _).mpr ⟨hcurve, hgroup⟩), checked_ok_bind] at hexec
      exact completesTo_of_ok _ s s _ hexec (keeps_complete s s _ (keeps_refl s _))
    · rw [validated_of_not_onCurve (hbad.resolve_left (by simp)), checked_error_bind] at hexec
      exact raises_of_error _ s _ hexec

end PointValidation

end Sys2Proof.Machine

/-! PROOF. The sum stays on the curve, and the ladder at small scalars and at infinity (O31, O32). -/

namespace Sys2Proof.Machine

section PointFunctions

/-- Settles O31: valid points stand for points of the group, and the sum for their sum. -/
theorem paddStaysOnTheCurve : Obligations.PaddStaysOnTheCurve := by
  intro q r hq hr
  have : Fact Config.p.Prime := ⟨p_prime⟩
  obtain ⟨g, hg⟩ := q.valid_iff_standsFor.mp hq
  obtain ⟨h, hh⟩ := r.valid_iff_standsFor.mp hr
  exact (padd q r).valid_iff_standsFor.mpr ⟨g + h, hg.padd hh⟩

/-- The iterations over leading zeros leave `INF` and the point (42_point_arithmetic.md R172). -/
theorem ladder_leading_zeros {k j : Nat} (hk : k < 2 ^ j) (i : Nat) (q : CurvePoint) :
    ladder k (j + i) .inf q = ladder k j .inf q := by
  induction i with
  | zero => rfl
  | succ i ih =>
    have hbit : k.testBit (j + i) = false :=
      Nat.testBit_lt_two_pow (hk.trans_le (Nat.pow_le_pow_right two_pos (Nat.le_add_right j i)))
    rw [← Nat.add_assoc, ladder, hbit]
    exact ih

/-- The scalar multiple needs only as many iterations as the scalar has bits (42_point_arithmetic.md R172). -/
theorem pmul_eq_ladder {k j : Nat} (hk : k < 2 ^ j) (hj : j ≤ 256) (q : CurvePoint) :
    pmul k q = ladder k j .inf q := by
  rw [pmul, ← Nat.add_sub_of_le hj, ladder_leading_zeros hk]

/-- On infinity each iteration of the ladder leaves both its points at infinity, whatever the bit. -/
theorem ladder_inf (k i : Nat) : ladder k i .inf .inf = .inf := by
  induction i with
  | zero => rfl
  | succ i ih =>
    rw [ladder]
    split
    · exact ih
    · exact ih

/-- Settles O32: the ladder over the bits of 0, 1 and 2 alone; and the ladder on infinity. -/
theorem ladderSmallScalars : Obligations.LadderSmallScalars := by
  refine ⟨fun q => ⟨?_, ?_, ?_⟩, fun k => ladder_inf k 256⟩
  · exact pmul_eq_ladder (j := 0) (by decide) (by decide) q
  · exact pmul_eq_ladder (j := 1) (by decide) (by decide) q
  · exact pmul_eq_ladder (j := 2) (by decide) (by decide) q

end PointFunctions

end Sys2Proof.Machine

/-! PROOF. The checks and the writes of the key commands (O33, O34, O35, O36, O37). -/

namespace Sys2Proof.Machine

section SlotWrites

/-- A completion whose write is one slot of `ks` (10_state.md R28). -/
theorem writesKs_writeKs_complete (s : State) (i : Fin 4) (k : PrivSlot) : WritesKs i k s (s.writeKs i k).complete :=
  ⟨(bank_get_set s.ks i i k).trans (if_pos rfl), fun j hj => (bank_get_set s.ks i j k).trans (if_neg hj),
    keeps_complete s _ _ (keeps_writeKs s i k)⟩

/-- A completion whose write is one slot of `kp` (10_state.md R29). -/
theorem writesKp_writeKp_complete (s : State) (i : Fin 4) (k : PubSlot) : WritesKp i k s (s.writeKp i k).complete :=
  ⟨(bank_get_set s.kp i i k).trans (if_pos rfl), fun j hj => (bank_get_set s.kp i j k).trans (if_neg hj),
    keeps_complete s _ _ (keeps_writeKp s i k)⟩

/-- A completion whose write is one byte string in a buffer (10_state.md R32). -/
theorem storesBytes_writeBuffer_complete {s : State} (h : Memory.rising s.mem) (a : Nat) (bs : List Byte) :
    StoresBytes a bs s (s.writeBuffer a bs).complete :=
  ⟨fun k hk => Memory.read_writeBytes_inside s.mem a k bs h hk,
    fun o ho => Memory.read_writeBytes_outside s.mem a o bs h ho⟩

end SlotWrites

section KeyChecks

theorem raiseIf_of {c : Prop} [Decidable c] (h : c) (e : CommandError) : raiseIf c e = .error e :=
  (raiseIf_error c e e).mpr ⟨h, rfl⟩

theorem raiseIf_of_not {c : Prop} [Decidable c] (h : ¬c) (e : CommandError) : raiseIf c e = .ok () :=
  (raiseIf_ok c e).mpr h

theorem privOperand_of_valid {k : PrivSlot} (h : k.valid = true) : privOperand k = .ok k.d :=
  (privOperand_ok k _).mpr ⟨h, rfl⟩

theorem pubOperand_of_valid {k : PubSlot} (h : k.valid = true) : pubOperand k = .ok (k.x, k.y) :=
  (pubOperand_ok k _).mpr ⟨h, rfl⟩

theorem validated_of_valid {x y : Nat} (hcurve : onCurve x y = true) (hgroup : pmul Config.n (.affine x y) = .inf) :
    validated x y = .ok () :=
  (validated_ok x y).mpr ((validate_valid x y).mpr ⟨hcurve, hgroup⟩)

variable {α : Type} {c : Instr} {s : State} {check : Checked α} {rest : α → Checked State}

/-- A command whose next check raises ends with that error, whatever comes after the check (60_exceptions.md R290). -/
theorem raises_of_check {e : CommandError} (hexec : exec c s = s.conclude (check >>= rest)) (h : check = .error e) :
    Raises c s e := by
  rw [h, checked_error_bind] at hexec
  exact raises_of_error c s e hexec

/-- A command whose next check passes goes on with the rest. -/
theorem exec_of_check {a : α} (hexec : exec c s = s.conclude (check >>= rest)) (h : check = .ok a) :
    exec c s = s.conclude (rest a) := by
  rwa [h, checked_ok_bind] at hexec

/-- A key command raises on an empty slot of `ks` (43_key_material.md R204). -/
theorem raises_of_empty_ks {k : PrivSlot} {rest : Word256 → Checked State}
    (hexec : exec c s = s.conclude (privOperand k >>= rest)) (h : k.valid = false) : Raises c s .keyNotValid :=
  raises_of_check hexec ((privOperand_error k _).mpr ⟨h, rfl⟩)

/-- A key command raises on an empty slot of `kp` (43_key_material.md R204). -/
theorem raises_of_empty_kp {k : PubSlot} {rest : Word256 × Word256 → Checked State}
    (hexec : exec c s = s.conclude (pubOperand k >>= rest)) (h : k.valid = false) : Raises c s .keyNotValid :=
  raises_of_check hexec ((pubOperand_error k _).mpr ⟨h, rfl⟩)

end KeyChecks

section KeyCommands

/-- What `IMPPRIV` does, its selector read (43_key_material.md R192). -/
theorem exec_imppriv_selOf (i : Fin 4) (len : Byte) (s : State) :
    exec (.imppriv (selOf i) len) s =
      s.conclude (raiseIf (len.toNat ≠ 32) .invalidKeyLength >>= fun _ =>
        raiseIf (Memory.readNat s.mem keyBase 32 = 0 ∨ Config.n ≤ Memory.readNat s.mem keyBase 32)
          .invalidScalarRange >>= fun _ =>
        .ok (s.writeKs i { d := BitVec.ofNat 256 (Memory.readNat s.mem keyBase 32), valid := true })) := by
  simp [exec, execImppriv]

/-- What `IMPPUB` does, its selector read (43_key_material.md R195). -/
theorem exec_imppub_selOf (j : Fin 4) (len : Byte) (s : State) :
    exec (.imppub (selOf j) len) s =
      s.conclude (raiseIf (len.toNat ≠ 65) .invalidKeyLength >>= fun _ =>
        raiseIf (Memory.read s.mem keyBase ≠ Config.tag) .invalidKeyFormat >>= fun _ =>
        validated (Memory.readNat s.mem (keyBase + 1) 32) (Memory.readNat s.mem (keyBase + 33) 32) >>= fun _ =>
        .ok (s.writeKp j { x := BitVec.ofNat 256 (Memory.readNat s.mem (keyBase + 1) 32)
                           y := BitVec.ofNat 256 (Memory.readNat s.mem (keyBase + 33) 32), valid := true })) := by
  simp [exec, execImppub]

/-- What `EXPPRIV` does, its selector read (43_key_material.md R198). -/
theorem exec_exppriv_selOf (i : Fin 4) (s : State) :
    exec (.exppriv (selOf i)) s =
      s.conclude (privOperand s.ks[i] >>= fun d => .ok (s.writeBuffer keyBase (privEncoding d))) := by
  simp [exec, execExppriv]

/-- What `EXPPUB` does, its selector read (43_key_material.md R199). -/
theorem exec_exppub_selOf (j : Fin 4) (s : State) :
    exec (.exppub (selOf j)) s =
      s.conclude (pubOperand s.kp[j] >>= fun q => .ok (s.writeBuffer keyBase (pubEncoding q.1 q.2))) := by
  simp [exec, execExppub]

/-- What `DERIVE` does, its selectors read (43_key_material.md R201). -/
theorem exec_derive_selOf (j i : Fin 4) (s : State) :
    exec (.derive (selOf j) (selOf i)) s =
      s.conclude (privOperand s.ks[i] >>= fun d => .ok (s.writeKp j (derivedSlot d))) := by
  simp [exec, execDerive]

/-- Settles O33: the length check, the range check and the write, in their order. -/
theorem impprivChecksLengthThenRange : Obligations.ImpprivChecksLengthThenRange := by
  intro i len s v
  have hexec := exec_imppriv_selOf i len s
  have hrest (hlen : len.toNat = 32) := exec_of_check hexec (raiseIf_of_not (not_not.mpr hlen) _)
  refine ⟨fun hlen => raises_of_check hexec (raiseIf_of hlen _), fun hlen hrange => ?_, fun hlen hpos hlt => ?_⟩
  · exact raises_of_check (hrest hlen) (raiseIf_of hrange _)
  · have hwrite := exec_of_check (hrest hlen) (raiseIf_of_not (not_or.mpr ⟨hpos.ne', Nat.not_le.mpr hlt⟩) _)
    have hwrites := writesKs_writeKs_complete s i { d := BitVec.ofNat 256 v, valid := true }
    refine completesTo_of_ok _ s _ _ hwrite ⟨hwrites, ?_⟩
    rw [hwrites.1]
    exact (BitVec.toNat_ofNat v 256).trans (Nat.mod_eq_of_lt (hlt.trans n_lt))

/-- Settles O34: the length check, the tag check, point validation and the write, in their order. -/
theorem imppubChecksLengthTagAndPoint : Obligations.ImppubChecksLengthTagAndPoint := by
  intro j len s x y onC inGroup tagged
  have hexec := exec_imppub_selOf j len s
  have hrest (hlen : len.toNat = 65) := exec_of_check hexec (raiseIf_of_not (not_not.mpr hlen) _)
  have hpoint (hlen : len.toNat = 65) (htag : tagged) :=
    exec_of_check (hrest hlen) (raiseIf_of_not (not_not.mpr htag) _)
  refine ⟨fun hlen => raises_of_check hexec (raiseIf_of hlen _), fun hlen htag => ?_, fun hlen htag hcurve => ?_,
    fun hlen htag hcurve hgroup => ?_⟩
  · exact raises_of_check (hrest hlen) (raiseIf_of htag _)
  · exact raises_of_check (hpoint hlen htag) (validated_of_not_onCurve hcurve)
  · have hwrite := exec_of_check (hpoint hlen htag) (validated_of_valid hcurve hgroup)
    exact completesTo_of_ok _ s _ _ hwrite (writesKp_writeKp_complete s j _)

/-- Settles O35: the slot check, then one write of the buffer, of 68 bytes for either command. -/
theorem exportsWriteTheWholeBuffer : Obligations.ExportsWriteTheWholeBuffer := by
  intro i s hmem
  have hpriv := exec_exppriv_selOf i s
  have hpub := exec_exppub_selOf i s
  have hstores (bs : List Byte) : StoresBytes keyBase bs s (s.writeBuffer keyBase bs).complete ∧
      Keeps s (s.writeBuffer keyBase bs).complete [.mem] :=
    ⟨storesBytes_writeBuffer_complete hmem.1 keyBase bs, keeps_complete s _ _ (keeps_writeBuffer s keyBase bs)⟩
  refine ⟨fun hvalid => ?_, raises_of_empty_ks hpriv, fun hvalid => ?_, raises_of_empty_kp hpub⟩
  · have hwrite := exec_of_check hpriv (privOperand_of_valid hvalid)
    exact completesTo_of_ok _ s _ _ hwrite (hstores (privEncoding s.ks[i].d))
  · have hwrite := exec_of_check hpub (pubOperand_of_valid hvalid)
    exact completesTo_of_ok _ s _ _ hwrite (hstores (pubEncoding s.kp[i].x s.kp[i].y))

/-- A finite multiple of the base point is what the derived slot holds (43_key_material.md R201). -/
theorem derivedSlot_of_affine {d : Word256} {x y : Nat} (h : pmul d.toNat basePoint = .affine x y) :
    derivedSlot d = { x := BitVec.ofNat 256 x, y := BitVec.ofNat 256 y, valid := true } := by
  simp [derivedSlot, h, CurvePoint.xCoord, CurvePoint.yCoord]

/-- `DERIVE` of a valid slot completes with the derived slot as its one write (43_key_material.md R201). -/
theorem exec_derive_of_valid (j : Fin 4) {i : Fin 4} {s : State} (h : s.ks[i].valid = true) :
    exec (.derive (selOf j) (selOf i)) s = s.conclude (.ok (s.writeKp j (derivedSlot s.ks[i].d))) := by
  rw [exec_derive_selOf, privOperand_of_valid h, checked_ok_bind]

/-- Settles O36: the slot check, then one write of a slot that is valid whatever the multiple is. -/
theorem deriveFillsThePublicSlot : Obligations.DeriveFillsThePublicSlot := by
  intro j i s
  refine ⟨fun hvalid => ?_, raises_of_empty_ks (exec_derive_selOf j i s)⟩
  have hwrites := writesKp_writeKp_complete s j (derivedSlot s.ks[i].d)
  have ⟨hslot, hothers, hkeeps⟩ := hwrites
  refine completesTo_of_ok _ s _ _ (exec_derive_of_valid j hvalid) ⟨?_, ⟨rfl, hothers, hkeeps⟩, fun x y hq => ?_⟩
  · rw [hslot, derivedSlot]
  · rw [hslot, derivedSlot_of_affine hq]
    exact ⟨rfl, rfl⟩

/-- Settles O37: the write alone, since no check reads the slot. -/
theorem disposeEmptiesOnlyItsSlot : Obligations.DisposeEmptiesOnlyItsSlot := fun i s =>
  completesTo_of_ok _ s _ _ (by simp [exec, execDispose]) (writesKs_writeKs_complete s i _)

end KeyCommands

end Sys2Proof.Machine
/-! PROOF. A signature in `SIGBUF`: what `SIGN` leaves there is what `VERIFY` reads (45_ecdsa.md R242). -/

namespace Sys2Proof.Machine

section BufferStrings

variable {m : Memory} {a k : Nat} {bs : List Byte}

/-- Storing a string is storing its first part and then the rest behind it. -/
theorem Memory.writeBytes_append (m : Memory) (a : Nat) (bs cs : List Byte) :
    Memory.writeBytes m a (bs ++ cs) = Memory.writeBytes (Memory.writeBytes m a bs) (a + bs.length) cs := by
  induction bs generalizing m a with
  | nil => rfl
  | cons b bs ih =>
    rw [List.cons_append, Memory.writeBytes, ih, Memory.writeBytes, List.length_cons, Nat.add_right_comm, Nat.add_assoc]

/-- A string write leaves every number that is read outside the string. -/
theorem Memory.readNat_writeBytes_outside (h : m.rising) {b : Nat} (hout : b + k ≤ a ∨ a + bs.length ≤ b) :
    Memory.readNat (Memory.writeBytes m a bs) b k = Memory.readNat m b k := by
  refine congrArg beNat (List.map_congr_left fun i hi => ?_)
  have hik := List.mem_range.mp hi
  exact Memory.read_writeBytes_outside m a (b + i) bs h (by omega)

/-- A 256-bit value stored as 32 bytes is the number read back (00_scope.md R8). -/
theorem Memory.readNat_writeBytes_be32 (h : m.rising) (v : Word256) :
    Memory.readNat (Memory.writeBytes m a (be32 v)) a 32 = v.toNat := by
  have hbytes := Memory.readBytes_writeBytes m a (be32 v) h
  rw [be32_length] at hbytes
  rw [Memory.readNat, hbytes, beNat_be32]

end BufferStrings

section SignatureBytes

variable {s : State} {r t : Nat}

theorem writeBuffer_sigEncoding_mem (s : State) (r t : Nat) :
    (s.writeBuffer sigBase (sigEncoding r t)).mem =
      Memory.writeBytes (Memory.writeBytes s.mem sigBase (be32 (BitVec.ofNat 256 r))) (sigBase + 32)
        (be32 (BitVec.ofNat 256 t)) := by
  rw [State.writeBuffer_mem, sigEncoding, Memory.writeBytes_append, be32_length]

/-- The first component of a stored signature is read back (45_ecdsa.md R242). -/
theorem sigR_writeBuffer (h : Memory.rising s.mem) (hr : r < 2 ^ 256) :
    (s.writeBuffer sigBase (sigEncoding r t)).sigR = r := by
  rw [State.sigR, writeBuffer_sigEncoding_mem,
    Memory.readNat_writeBytes_outside (Memory.rising_writeBytes _ _ _ h) (.inl le_rfl),
    Memory.readNat_writeBytes_be32 h, BitVec.toNat_ofNat, Nat.mod_eq_of_lt hr]

/-- The second component of a stored signature is read back (45_ecdsa.md R242). -/
theorem sigS_writeBuffer (h : Memory.rising s.mem) (ht : t < 2 ^ 256) :
    (s.writeBuffer sigBase (sigEncoding r t)).sigS = t := by
  rw [State.sigS, writeBuffer_sigEncoding_mem, Memory.readNat_writeBytes_be32 (Memory.rising_writeBytes _ _ _ h),
    BitVec.toNat_ofNat, Nat.mod_eq_of_lt ht]

/-- Storing a signature leaves the digest (45_ecdsa.md R248). -/
theorem digestScalar_writeBuffer (h : Memory.rising s.mem) :
    (s.writeBuffer sigBase (sigEncoding r t)).digestScalar = s.digestScalar := by
  rw [State.digestScalar, State.digest, State.writeBuffer_mem,
    Memory.readNat_writeBytes_outside h (.inl (by decide))]
  rfl

@[simp] theorem complete_sigR (s : State) : s.complete.sigR = s.sigR := rfl
@[simp] theorem complete_sigS (s : State) : s.complete.sigS = s.sigS := rfl
@[simp] theorem complete_digestScalar (s : State) : s.complete.digestScalar = s.digestScalar := rfl

end SignatureBytes

end Sys2Proof.Machine

/-! PROOF. What a completed `SIGN` has done, and what a `VERIFY` with sound operands does (45_ecdsa.md R244, R250). -/

namespace Sys2Proof.Machine

section SignEnds

variable {s u : State}

/-- A candidate gives a signature exactly where the signature equations hold (45_ecdsa.md R244). -/
theorem signCandidate_eq_some_iff {d e c r t : Nat} : signCandidate d e c = some (r, t) ↔ Signs d e c r t := by
  unfold signCandidate Signs
  by_cases hc : c = 0 ∨ Config.n ≤ c
  · rw [if_pos hc]
    exact iff_of_false (by simp) fun ⟨hpos, hlt, _⟩ => by omega
  · have hpos : 0 < c := by omega
    have hlt : c < Config.n := by omega
    obtain ⟨x, y, hq, -⟩ := pmul_basePoint_finite c hpos hlt
    have hx : (pmul c basePoint).xCoord = x := congrArg CurvePoint.xCoord hq
    simp only [if_neg hc, hx]
    simp only [hq, hpos, hlt, true_and, CurvePoint.affine.injEq]
    constructor
    · intro h
      split at h
      · cases h
      · next hr =>
        split at h
        · cases h
        · next ht =>
          obtain ⟨rfl, rfl⟩ := Prod.mk.inj (Option.some.inj h)
          exact ⟨⟨x, y, ⟨rfl, rfl⟩, rfl⟩, hr, rfl, ht⟩
    · rintro ⟨⟨_, _, ⟨rfl, rfl⟩, rfl⟩, hr, rfl, ht⟩
      rw [if_neg hr, if_neg ht]

/-- A search in either mode signs with a candidate that was accepted (45_ecdsa.md R244). -/
theorem signSearch_signed {nonce : Word256 → Word256 → Nat → Word256} {mode : NonceStrategy} {d : Word256}
    {digest e r t : Nat} {entropy after : EntropySource}
    (h : signSearch nonce mode d digest e entropy = .signed r t after) :
    ∃ c, signCandidate d.toNat e c = some (r, t) := by
  cases mode with
  | random =>
    obtain ⟨b, -, hb⟩ := searchRandom_signed _ _ _ _ _ _ h
    exact ⟨b.toNat, hb⟩
  | deterministic =>
    simp only [signSearch] at h
    split at h
    · next hfound =>
      obtain ⟨rfl, rfl, -⟩ := SignSearch.signed.inj h
      obtain ⟨k, -, hk⟩ := searchIndexed_some _ _ _ hfound
      exact ⟨_, hk⟩
    · cases h

/-- A busy core that leaves the search without an error has found a signature and stored it (60_exceptions.md R282). -/
theorem concludeSign_endsOk {found : SignSearch} (hbusy : s.seq = .busy) (h : s.concludeSign found = .next u)
    (hends : EndsOk u) : ∃ r t after, found = .signed r t after ∧
      u = ((s.setEntropy after).writeBuffer sigBase (sigEncoding r t)).complete := by
  obtain ⟨hidle, -, herr, -⟩ := hends
  cases found <;> obtain rfl := Host.Outcome.next.inj h
  case signed r t after => exact ⟨r, t, after, rfl, rfl⟩
  case entropyFailed after => exact absurd herr (by simp)
  case waiting after => exact absurd (hbusy.symm.trans hidle) (by simp)
  case unending => exact absurd (hbusy.symm.trans hidle) (by simp)

/-- A `SIGN` that completes without error has stored a pair that the signature equations hold of (45_ecdsa.md R244). -/
theorem exec_sign_endsOk {i : Fin 4} (hbusy : s.seq = .busy) (h : exec (.sign (selOf i)) s = .next u)
    (hends : EndsOk u) : ∃ c r t after, Signs s.ks[i].d.toNat s.digestScalar c r t ∧
      u = ((s.setEntropy after).writeBuffer sigBase (sigEncoding r t)).complete := by
  have hexec : execSign (selOf i) s = .next u := h
  have ⟨_, _, herr, _⟩ := hends
  have hnoRaise (e : CommandError) : Host.Outcome.next (s.raise e) ≠ (.next u : Result) := by
    rintro heq
    obtain rfl := Host.Outcome.next.inj heq
    simp at herr
  rw [execSign_selOf] at hexec
  split at hexec
  · split at hexec
    · obtain ⟨r, t, after, hfound, hu⟩ := concludeSign_endsOk hbusy hexec hends
      obtain ⟨c, hc⟩ := signSearch_signed hfound
      exact ⟨c, r, t, after, signCandidate_eq_some_iff.mp hc, hu⟩
    · exact absurd hexec (hnoRaise _)
  · exact absurd hexec (hnoRaise _)

end SignEnds

section VerifyCommand

/-- What `VERIFY` does, its selector read (45_ecdsa.md R250). -/
theorem exec_verify_selOf (j : Fin 4) (len : Byte) (s : State) :
    exec (.verify (selOf j) len) s =
      s.conclude (pubOperand s.kp[j] >>= fun q => raiseIf (len.toNat ≠ 64) .malformedSignature >>= fun _ =>
        raiseIf (s.sigR = 0 ∨ Config.n ≤ s.sigR ∨ s.sigS = 0 ∨ Config.n ≤ s.sigS) .malformedSignature >>= fun _ =>
        .ok (s.setOk (verdict s.sigR
          (verifyPoint s.digestScalar s.sigR s.sigS (.affine q.1.toNat q.2.toNat))))) := by
  simp [exec, execVerify]

/-- A `VERIFY` that no check ends writes its verdict (45_ecdsa.md R250). -/
theorem exec_verify_of_valid {j : Fin 4} {len : Byte} {s : State} (hvalid : s.kp[j].valid = true)
    (hlen : len.toNat = 64) (hr : 0 < s.sigR ∧ s.sigR < Config.n) (ht : 0 < s.sigS ∧ s.sigS < Config.n) :
    exec (.verify (selOf j) len) s = s.conclude (.ok (s.setOk (verdict s.sigR
      (verifyPoint s.digestScalar s.sigR s.sigS (.affine s.kp[j].x.toNat s.kp[j].y.toNat))))) := by
  rw [exec_verify_selOf, pubOperand_of_valid hvalid, checked_ok_bind, raiseIf_of_not (not_not.mpr hlen),
    checked_ok_bind, raiseIf_of_not (by omega), checked_ok_bind]

end VerifyCommand

end Sys2Proof.Machine

/-! PROOF. The verification equation: the point that `VERIFY` computes is the point that `SIGN` took `r` from, so a derived
key accepts what its scalar signed (45_ecdsa.md R255) (O46). -/

namespace Sys2Proof.Machine

section VerificationEquation

/-- At most one model point stands for a point of the group. -/
theorem CurvePoint.StandsFor.eq_of_eq {q r : CurvePoint} {g h : p256.Point} (hq : q.StandsFor g) (hr : r.StandsFor h)
    (hgh : g = h) : q = r := by
  cases hq with
  | inf => exact (hr.eq_inf_iff.mpr hgh.symm).symm
  | affine hx hy _ =>
    cases hr with
    | inf => cases hgh
    | affine hx' hy' _ =>
      obtain ⟨hxx, hyy⟩ := WeierstrassCurve.Affine.Point.some.inj hgh
      rw [eq_of_natCast_eq hx hx' hxx, eq_of_natCast_eq hy hy' hyy]

theorem natCast_mul_inv_n {a : Nat} (hpos : 0 < a) (hlt : a < Config.n) :
    (a : ZMod Config.n) * (inv a Config.n : Nat) = 1 := by
  have hmul : a * inv a Config.n ≡ 1 [MOD Config.n] := mul_inv_mod_modulus .n hpos hlt
  exact_mod_cast (ZMod.natCast_eq_natCast_iff _ _ _).mpr hmul

/-- The scalars of a verification take the key's scalar back to the nonce (45_ecdsa.md R255). -/
theorem nonce_of_signs {d e c r t : Nat} (h : Signs d e c r t) :
    e * inv t Config.n % Config.n + d * (r * inv t Config.n % Config.n) ≡ c [MOD Config.n] := by
  obtain ⟨hpos, hlt, -, -, ht, ht0⟩ := h
  have hc := natCast_mul_inv_n hpos hlt
  have htlt : t < Config.n := ht ▸ Nat.mod_lt _ (modulus_pos .n)
  have hw := natCast_mul_inv_n (Nat.pos_of_ne_zero ht0) htlt
  have hsign : (c : ZMod Config.n) * t = e + r * d := by
    rw [ht, ZMod.natCast_mod, Nat.cast_mul, ZMod.natCast_mod, ← mul_assoc, hc, one_mul]
    push_cast
    rfl
  rw [← ZMod.natCast_eq_natCast_iff]
  push_cast [ZMod.natCast_mod]
  linear_combination (-(inv t Config.n : ZMod Config.n)) * hsign + (c : ZMod Config.n) * hw

/-- Verification of a signature with the public key of its scalar computes the point of the nonce (45_ecdsa.md R250,
R255). -/
theorem verifyPoint_of_signs {d e c r t : Nat} (hd : d < Config.n) (h : Signs d e c r t) :
    verifyPoint e r t (pmul d basePoint) = pmul c basePoint := by
  have : Fact Config.p.Prime := ⟨p_prime⟩
  have hnonce := nonce_of_signs h
  obtain ⟨-, hc, -⟩ := h
  obtain ⟨g, hg⟩ := basePoint.valid_iff_standsFor.mp basePoint_onCurve
  have hng : Config.n • g = 0 := (hg.pmul Config.n n_lt).eq_inf_iff.mp pmul_n_basePoint
  have hscalar (k : Nat) : k % Config.n < 2 ^ 256 := (Nat.mod_lt k (modulus_pos .n)).trans n_lt
  have hsum := (hg.pmul _ (hscalar (e * inv t Config.n))).padd
    ((hg.pmul d (hd.trans n_lt)).pmul _ (hscalar (r * inv t Config.n)))
  have hpoint := hg.pmul c (hc.trans n_lt)
  rw [← mul_nsmul, ← add_nsmul] at hsum
  exact hsum.eq_of_eq hpoint
    (nsmul_eq_nsmul_iff_modEq.mpr (hnonce.of_dvd (addOrderOf_dvd_of_nsmul_eq_zero hng)))

/-- A signature is accepted at the point of its nonce (45_ecdsa.md R250, R255). -/
theorem verdict_of_signs {d e c r t : Nat} (h : Signs d e c r t) : verdict r (pmul c basePoint) = true := by
  obtain ⟨-, -, ⟨x, y, hpoint, hr⟩, -⟩ := h
  rw [hpoint, verdict, hr, beq_self_eq_true]

end VerificationEquation

section SignThenVerify

variable {s : State} {j : Fin 4}

/-- The slot that `DERIVE` fills holds the multiple itself, since the coordinates of a curve point fit a register
(43_key_material.md R201). -/
theorem pmul_eq_derivedSlot {d : Word256} (hpos : 0 < d.toNat) (hlt : d.toNat < Config.n) :
    pmul d.toNat basePoint = .affine (derivedSlot d).x.toNat (derivedSlot d).y.toNat := by
  obtain ⟨x, y, hq, hcurve, -⟩ := pmul_basePoint_finite d.toNat hpos hlt
  obtain ⟨hx, hy, -⟩ := (onCurve_iff x y).mp hcurve
  have hp : Config.p < 2 ^ 256 := (modulus_bounds .p).2
  rw [hq, derivedSlot_of_affine hq, BitVec.toNat_ofNat, BitVec.toNat_ofNat, Nat.mod_eq_of_lt (hx.trans hp),
    Nat.mod_eq_of_lt (hy.trans hp)]

/-- `VERIFY` with the slot derived from a scalar accepts a pair in `SIGBUF` for which the signature equations of that scalar
hold over the digest in `DIGBUF` (45_ecdsa.md R255). -/
theorem verify_accepts_of_signs {d : Word256} {c : Nat} (hpos : 0 < d.toNat) (hlt : d.toNat < Config.n)
    (hslot : s.kp[j] = derivedSlot d) (hsigns : Signs d.toNat s.digestScalar c s.sigR s.sigS) :
    CompletesTo (.verify (selOf j) 64#8) s (fun t => t.flags.ok = true) := by
  obtain ⟨-, hr, ht⟩ := signCandidate_range _ _ _ _ _ (signCandidate_eq_some_iff.mpr hsigns)
  have hexec := exec_verify_of_valid (len := 64#8) (congrArg PubSlot.valid hslot) rfl hr ht
  refine completesTo_of_ok _ s _ _ hexec ?_
  rw [hslot, ← pmul_eq_derivedSlot hpos hlt, verifyPoint_of_signs hlt hsigns]
  exact verdict_of_signs hsigns

/-- What `SIGN` leaves in the buffers is the signature it found, over the digest it read (45_ecdsa.md R242, R248). -/
theorem signs_of_stored {d c r t : Nat} (hmem : Memory.rising s.mem) (h : Signs d s.digestScalar c r t) :
    Signs d (s.writeBuffer sigBase (sigEncoding r t)).digestScalar c
      (s.writeBuffer sigBase (sigEncoding r t)).sigR (s.writeBuffer sigBase (sigEncoding r t)).sigS := by
  obtain ⟨-, hr, ht⟩ := signCandidate_range _ _ _ _ _ (signCandidate_eq_some_iff.mpr h)
  rwa [digestScalar_writeBuffer hmem, sigR_writeBuffer hmem (hr.2.trans n_lt), sigS_writeBuffer hmem (ht.2.trans n_lt)]

/-- Settles O46: `DERIVE` leaves the public key of the scalar, a completed `SIGN` a pair that the signature equations hold
of, and `VERIFY` accepts such a pair. -/
theorem signatureVerifies : Obligations.SignatureVerifies := by
  intro i j s s1 hmem hvalid hpos hlt hderive
  rw [exec_derive_of_valid j hvalid] at hderive
  obtain rfl := Host.Outcome.next.inj hderive
  have hslot := (writesKp_writeKp_complete s j (derivedSlot s.ks[i].d)).1
  refine ⟨?_, fun s2 hsign hends => ?_⟩
  · obtain ⟨x, y, hq, hcurve, -⟩ := pmul_basePoint_finite _ hpos hlt
    exact ⟨x, y, hq, hcurve, complete_endsOk _, hslot.trans (derivedSlot_of_affine hq)⟩
  · obtain ⟨c, r, t, after, hsigns, rfl⟩ := exec_sign_endsOk rfl hsign hends
    refine verify_accepts_of_signs (c := c) hpos hlt ?_ ?_
    · rw [State.complete_kp, State.writeBuffer_kp]
      exact hslot
    · rw [complete_digestScalar, complete_sigR, complete_sigS]
      exact signs_of_stored hmem.1 hsigns

end SignThenVerify

end Sys2Proof.Machine

/-! PROOF. `SIGN` by the nonce mode: where the answers of the entropy source run out in random mode, and what a signature of
deterministic mode depends on (O40, O44). -/

namespace Sys2Proof.Machine

section NonceModes

variable {nonce : Word256 → Word256 → Nat → Word256} {i : Fin 4} {s : State}

/-- A `SIGN` that passes its checks is the search of the selected mode and its end (45_ecdsa.md R244). -/
theorem signWith_of_valid {mode : NonceStrategy} (hvalid : s.ks[i].valid = true)
    (hmode : nonceStrategy s.nonceMode = .ok mode) :
    signWith nonce (selOf i) s =
      s.concludeSign (signSearch nonce mode s.ks[i].d s.digest s.digestScalar s.env.entropy) := by
  have hoperands : signOperands (selOf i) s = .ok (s.ks[i].d, mode) := by
    rw [signOperands, slotSel_selOf, checked_ok_bind, privOperand_of_valid hvalid, checked_ok_bind, hmode,
      checked_ok_bind]
  rw [signWith, hoperands]

end NonceModes

section EntropyFailure

variable {i : Fin 4} {s : State} {rejected : List Word256} {later : List EntropyAnswer}

/-- In random mode `SIGN` passes over the rejected answers and ends as the search over the later ones does
(44_nonce_source.md R223). -/
theorem exec_sign_random (hvalid : s.ks[i].valid = true) (hmode : s.nonceMode = 1#2)
    (hrejected : ∀ b ∈ rejected, signCandidate s.ks[i].d.toNat s.digestScalar b.toNat = none)
    (hanswers : s.env.entropy.answers = rejected.map .ok ++ later) :
    exec (.sign (selOf i)) s =
      s.concludeSign (searchRandom (signCandidate s.ks[i].d.toNat s.digestScalar) s.env.entropy later) := by
  have hstrategy : nonceStrategy s.nonceMode = .ok .random := if_pos hmode
  calc exec (.sign (selOf i)) s = signWith Config.detNonce (selOf i) s := rfl
    _ = s.concludeSign (searchRandom (signCandidate s.ks[i].d.toNat s.digestScalar) s.env.entropy
          s.env.entropy.answers) := signWith_of_valid hvalid hstrategy
    _ = _ := by rw [hanswers, searchRandom_append _ _ _ _ hrejected]

/-- A failed `EntropyRead` ends `SIGN` with its error; only the answers used up change (44_nonce_source.md R226). -/
theorem concludeSign_entropyFailed (s : State) (after : EntropySource) :
    ∃ u, s.concludeSign (.entropyFailed after) = .next u ∧ u.seq = .idle ∧ u.status.done = true ∧
      u.status.err = true ∧ u.status.errcode = 0x07#8 ∧ u.env = { s.env with entropy := after } ∧ Keeps s u [.env] :=
  ⟨(s.setEntropy after).raise .entropyUnavailable, rfl, rfl, rfl, rfl, rfl, rfl,
    keeps_trans (keeps_setEntropy s after) (keeps_raise _ _)⟩

/-- Settles O40: behind the rejected answers the search is left with `Fail`, or with nothing and the source's silence or
timeout. -/
theorem randomSignSurfacesEntropyFailure : Obligations.RandomSignSurfacesEntropyFailure := by
  intro i s rejected hvalid hmode hrejected fails
  have fails_of_search {later rest : List EntropyAnswer} (hanswers : s.env.entropy.answers = rejected.map .ok ++ later)
      (hsearch : searchRandom (signCandidate s.ks[i].d.toNat s.digestScalar) s.env.entropy later =
        .entropyFailed (s.env.entropy.consume rest)) : fails rest := by
    have hend := concludeSign_entropyFailed s (s.env.entropy.consume rest)
    rwa [← hsearch, ← exec_sign_random hvalid hmode hrejected hanswers] at hend
  refine ⟨fun rest hanswers => ?failAnswer, fun hanswers htail => ?timeout, fun hanswers htail => ?silence⟩
  case failAnswer => exact fails_of_search hanswers rfl
  case timeout => exact fails_of_search (later := []) (by rw [hanswers, List.append_nil]) (by rw [searchRandom, htail])
  case silence =>
    rw [exec_sign_random (later := []) hvalid hmode hrejected (by rw [hanswers, List.append_nil]), searchRandom, htail]
    rfl

end EntropyFailure

section DeterministicSignature

variable {nonce : Word256 → Word256 → Nat → Word256} {i : Fin 4} {s u : State}

/-- A completed `SIGN` of deterministic mode has stored what the search over the indices found; that search sees the scalar
and the digest only (44_nonce_source.md R224, R225). -/
theorem signWith_deterministic_endsOk (hvalid : s.ks[i].valid = true) (hmode : s.nonceMode = 2#2)
    (hbusy : s.seq = .busy) (h : signWith nonce (selOf i) s = .next u) (hends : EndsOk u) :
    ∃ r t, searchIndexed (indexedCandidate nonce s.ks[i].d s.digest s.digestScalar) 0 = some (r, t) ∧
      u.mem = Memory.writeBytes s.mem sigBase (sigEncoding r t) := by
  have hstrategy : nonceStrategy s.nonceMode = .ok .deterministic := by rw [hmode]; rfl
  rw [signWith_of_valid hvalid hstrategy] at h
  obtain ⟨r, t, after, hfound, rfl⟩ := concludeSign_endsOk hbusy h hends
  simp only [signSearch] at hfound
  split at hfound
  · next hsearch =>
    obtain ⟨rfl, rfl, -⟩ := SignSearch.signed.inj hfound
    exact ⟨_, _, hsearch, by rw [State.complete_mem, State.writeBuffer_mem, State.setEntropy_mem]⟩
  · cases hfound

theorem sigEncoding_length (r t : Nat) : (sigEncoding r t).length = 64 := by
  rw [sigEncoding, List.length_append, be32_length, be32_length]

/-- Settles O44: both searches are over the same candidates, so both runs store the same 64 bytes. -/
theorem deterministicSignDependsOnKeyAndDigest : Obligations.DeterministicSignDependsOnKeyAndDigest := by
  intro nonce i j s s' u u' hmem hmem' hmode hmode' hvalid hvalid' hd hdigest hbusy hbusy' h h' hends hends' k hk
  obtain ⟨r, t, hfound, hu⟩ := signWith_deterministic_endsOk hvalid hmode hbusy h hends
  obtain ⟨r', t', hfound', hu'⟩ := signWith_deterministic_endsOk hvalid' hmode' hbusy' h' hends'
  have hscalar : s.digestScalar = s'.digestScalar := congrArg (· % Config.n) hdigest
  rw [hd, hdigest, hscalar] at hfound
  obtain ⟨rfl, rfl⟩ := Prod.mk.inj (Option.some.inj (hfound.symm.trans hfound'))
  have hlen : k < (sigEncoding r t).length := (sigEncoding_length r t).symm ▸ hk
  calc Memory.read u.mem (sigBase + k) = (sigEncoding r t)[k] := by
        rw [hu, Memory.read_writeBytes_inside s.mem sigBase k _ hmem.1 hlen]
    _ = Memory.read u'.mem (sigBase + k) := by
        rw [hu', Memory.read_writeBytes_inside s'.mem sigBase k _ hmem'.1 hlen]

end DeterministicSignature

end Sys2Proof.Machine

/-! PROOF. What `SIGN` does by its nonce mode: the checks before the search, the signature it stores, where the search over
the indices ends, and the range of the components (O38, O39, O41, O42, O43). -/

namespace Sys2Proof.Machine

section SignChecks

variable {i : Fin 4} {s : State}

/-- `SIGN` on an empty slot raises, whatever the nonce mode (45_ecdsa.md R244). -/
theorem exec_sign_of_empty (hempty : s.ks[i].valid = false) :
    exec (.sign (selOf i)) s = s.conclude (.error .keyNotValid) :=
  (execSign_selOf i s).trans (if_neg (Bool.eq_false_iff.mp hempty))

/-- `SIGN` with a valid slot raises what the selection of the strategy raises (44_nonce_source.md R221). -/
theorem exec_sign_of_unselected {e : CommandError} (hvalid : s.ks[i].valid = true)
    (hmode : nonceStrategy s.nonceMode = .error e) : exec (.sign (selOf i)) s = s.conclude (.error e) := by
  refine ((execSign_selOf i s).trans (if_pos hvalid)).trans ?_
  rw [hmode, conclude_error]

/-- Settles O38: the slot check comes first, and modes 0 and 3 select no strategy. -/
theorem signChecksSlotThenMode : Obligations.SignChecksSlotThenMode := by
  intro i s
  refine ⟨fun hempty => raises_of_error _ s _ (exec_sign_of_empty hempty), fun hvalid hmode => ?_⟩
  have hunselected : nonceStrategy s.nonceMode = .error .nonceModeUnselected := by
    rcases hmode with hmode | hmode <;> rw [hmode] <;> rfl
  exact raises_of_error _ s _ (exec_sign_of_unselected hvalid hunselected)

end SignChecks

section StoredSignature

variable {s u : State}

/-- A search that found a signature completes the command, stores the 64 bytes at `SIGBUF`, and leaves everything but the
answers used up (45_ecdsa.md R244). -/
theorem concludeSign_signed (hmem : Memory.rising s.mem) (r t : Nat) (after : EntropySource) :
    ∃ u, s.concludeSign (.signed r t after) = .next u ∧ EndsOk u ∧ StoresBytes sigBase (sigEncoding r t) s u ∧
      u.env = { s.env with entropy := after } ∧ Keeps s u [.mem, .env] :=
  ⟨_, rfl, complete_endsOk _, storesBytes_writeBuffer_complete (s := s.setEntropy after) hmem sigBase _, rfl,
    (CommandEnd.signed after _ (sigEncoding_length r t)).keeps⟩

/-- A part that is the same after all need not be listed as changed. -/
theorem keeps_of_keeps_append {q : Part} {l : List Part} (h : Keeps s u (l ++ [q])) (hq : q.same s u) : Keeps s u l := by
  intro q' hq'
  by_cases heq : q' = q
  · exact heq ▸ hq
  · exact h q' (by simp [hq', heq])

/-- Settles O39: the search passes over the rejected answers and stops at the accepted one. -/
theorem randomSignUsesTheFirstAcceptedAnswer : Obligations.RandomSignUsesTheFirstAcceptedAnswer := by
  intro i s rejected c rest r t hmem hvalid hmode hanswers hrejected hsigns
  have hfound : searchRandom (signCandidate s.ks[i].d.toNat s.digestScalar) s.env.entropy (.ok c :: rest) =
      .signed r t (s.env.entropy.consume rest) := by
    have hcandidate : signCandidate s.ks[i].d.toNat s.digestScalar c.toNat = some (r, t) :=
      signCandidate_eq_some_iff.mpr hsigns
    simp only [searchRandom, hcandidate]
  have hexec := exec_sign_random hvalid hmode hrejected hanswers
  rw [hfound] at hexec
  obtain ⟨u, hu, hends, hstores, henv, hkeeps⟩ := concludeSign_signed hmem.1 r t (s.env.entropy.consume rest)
  exact ⟨u, hexec.trans hu, hends, hstores, henv, hkeeps⟩

end StoredSignature

section IndexSearch

variable {attempt : Nat → Option (Nat × Nat)} {rs : Nat × Nat}

/-- The loop from index 0 answers what the first accepted index gives (44_nonce_source.md R224). -/
theorem searchIndexed_zero_of_first {k : Nat} (hk : attempt k = some rs) (hbefore : ∀ u < k, attempt u = none) :
    searchIndexed attempt 0 = some rs :=
  searchIndexed_of_first attempt rs k 0 (by rwa [Nat.zero_add]) fun u hu => by
    rw [Nat.zero_add]
    exact hbefore u hu

/-- The loop from index 0 has an answer exactly when some index is accepted (45_ecdsa.md R246). -/
theorem exists_searchIndexed_zero_iff : (∃ rs, searchIndexed attempt 0 = some rs) ↔ ∃ t, attempt t ≠ none := by
  constructor
  · rintro ⟨rs, h⟩
    obtain ⟨t, -, ht⟩ := searchIndexed_some attempt 0 rs h
    exact ⟨t, by simp [ht]⟩
  · intro hex
    obtain ⟨rs, hrs⟩ := Option.ne_none_iff_exists'.mp (Nat.find_spec hex)
    exact ⟨rs, searchIndexed_zero_of_first hrs fun u hu => not_not.mp (Nat.find_min hex hu)⟩

end IndexSearch

section DeterministicSign

variable {nonce : Word256 → Word256 → Nat → Word256} {i : Fin 4} {s : State}

theorem nonceStrategy_deterministic (hmode : s.nonceMode = 2#2) : nonceStrategy s.nonceMode = .ok .deterministic := by
  rw [hmode]
  rfl

/-- In deterministic mode `SIGN` signs with what the search over the indices finds, and the entropy source stays as it is
(44_nonce_source.md R226). -/
theorem signWith_deterministic_of_found {r t : Nat} (hvalid : s.ks[i].valid = true) (hmode : s.nonceMode = 2#2)
    (hfound : searchIndexed (indexedCandidate nonce s.ks[i].d s.digest s.digestScalar) 0 = some (r, t)) :
    signWith nonce (selOf i) s = s.concludeSign (.signed r t s.env.entropy) := by
  rw [signWith_of_valid hvalid (nonceStrategy_deterministic hmode)]
  simp only [signSearch, hfound]

/-- In deterministic mode `SIGN` changes nothing where the search over the indices has no end (45_ecdsa.md R246;
93_implementation_defined.md U10). -/
theorem signWith_deterministic_of_unending (hvalid : s.ks[i].valid = true) (hmode : s.nonceMode = 2#2)
    (hnone : searchIndexed (indexedCandidate nonce s.ks[i].d s.digest s.digestScalar) 0 = none) :
    signWith nonce (selOf i) s = .next s := by
  rw [signWith_of_valid hvalid (nonceStrategy_deterministic hmode)]
  simp only [signSearch, hnone, State.concludeSign]

/-- Settles O41: the search stops at the first accepted index, and what it found is stored. -/
theorem deterministicSignUsesTheFirstAcceptedIndex : Obligations.DeterministicSignUsesTheFirstAcceptedIndex := by
  refine ⟨fun _ _ => rfl, ?_⟩
  intro nonce i s k r t e c hmem hvalid hmode hbefore hsigns
  have hfound : searchIndexed (indexedCandidate nonce s.ks[i].d s.digest s.digestScalar) 0 = some (r, t) :=
    searchIndexed_zero_of_first (signCandidate_eq_some_iff.mpr hsigns) hbefore
  obtain ⟨u, hu, hends, hstores, henv, hkeeps⟩ := concludeSign_signed hmem.1 r t s.env.entropy
  exact ⟨u, (signWith_deterministic_of_found hvalid hmode hfound).trans hu, hends, hstores,
    keeps_of_keeps_append (l := [.mem]) hkeeps henv⟩

/-- Settles O42: a completed `SIGN` has an accepted index, the least accepted index ends the search, and without one the
search has no answer. -/
theorem deterministicSignEndsIffSomeIndexIsAccepted : Obligations.DeterministicSignEndsIffSomeIndexIsAccepted := by
  intro nonce i s attempt hbusy hvalid hmode
  have hanswer_iff : (∃ rs, searchIndexed (indexedCandidate nonce s.ks[i].d s.digest s.digestScalar) 0 = some rs) ↔
      ∃ t, attempt t ≠ none := exists_searchIndexed_zero_iff
  refine ⟨⟨?completed, ?accepted⟩, ?unending⟩
  case completed =>
    rintro ⟨u, hu, hends⟩
    obtain ⟨r, t, hfound, -⟩ := signWith_deterministic_endsOk hvalid hmode hbusy hu hends
    exact hanswer_iff.mp ⟨(r, t), hfound⟩
  case accepted =>
    intro hex
    obtain ⟨⟨r, t⟩, hfound⟩ := hanswer_iff.mpr hex
    exact ⟨_, signWith_deterministic_of_found hvalid hmode hfound, complete_endsOk _⟩
  case unending =>
    intro hnone
    refine signWith_deterministic_of_unending hvalid hmode (Option.eq_none_iff_forall_ne_some.mpr fun rs hrs => ?_)
    obtain ⟨t, ht⟩ := hanswer_iff.mp ⟨rs, hrs⟩
    exact ht (hnone t)

end DeterministicSign

section SignedRange

variable {s u : State}

/-- A command of a busy core that ends idle and without `ERR` has completed (60_exceptions.md R282, R283). -/
theorem CommandEnd.endsOk {parts : List Part} (h : CommandEnd s parts u) (hbusy : s.seq = .busy) (hidle : u.seq = .idle)
    (herr : u.status.err = false) : EndsOk u := by
  cases h with
  | completed _ => exact complete_endsOk _
  | raised e => exact absurd herr (by simp)
  | signed after bs _ => exact complete_endsOk _
  | entropyFailed after => exact absurd herr (by simp)
  | pending after => exact absurd (hbusy.symm.trans hidle) (by simp)

/-- Settles O43: what a completed `SIGN` has stored is an accepted candidate's pair, and `SIGBUF` reads it back. -/
theorem signedComponentsAreInRange : Obligations.SignedComponentsAreInRange := by
  intro i s u hmem hbusy hexec hidle herr
  have hends := (exec_end hexec).endsOk hbusy hidle herr
  obtain ⟨c, r, t, after, hsigns, rfl⟩ := exec_sign_endsOk hbusy hexec hends
  obtain ⟨-, ⟨hr, hrn⟩, ⟨ht, htn⟩⟩ := signCandidate_range _ _ _ _ _ (signCandidate_eq_some_iff.mpr hsigns)
  have hmem' : Memory.rising (s.setEntropy after).mem := hmem.1
  rw [complete_sigR, complete_sigS, sigR_writeBuffer hmem' (hrn.trans n_lt), sigS_writeBuffer hmem' (htn.trans n_lt)]
  exact ⟨⟨hr, hrn⟩, ht, htn⟩

end SignedRange

end Sys2Proof.Machine

/-! PROOF. What `VERIFY` decides: its checks in their order, and the verdict in `FLAGS.OK` (O45). -/

namespace Sys2Proof.Machine

section Verdict

/-- The verdict is positive exactly at a finite point whose `x` is `r` modulo `n` (45_ecdsa.md R250). -/
theorem verdict_iff {r : Nat} {q : CurvePoint} : verdict r q = true ↔ ∃ x y, q = .affine x y ∧ x % Config.n = r := by
  cases q with
  | inf => simp [verdict]
  | affine x y => simp [verdict]

variable {j : Fin 4} {len : Byte} {s : State}

/-- `VERIFY` with a valid slot raises on a wrong length and on a component out of range alike (45_ecdsa.md R250,
step 1). -/
theorem verify_raises_of_malformed (hvalid : s.kp[j].valid = true)
    (h : len.toNat ≠ 64 ∨ ¬(0 < s.sigR ∧ s.sigR < Config.n ∧ 0 < s.sigS ∧ s.sigS < Config.n)) :
    Raises (.verify (selOf j) len) s .malformedSignature := by
  have hlength := exec_of_check (exec_verify_selOf j len s) (pubOperand_of_valid hvalid)
  by_cases hlen : len.toNat = 64
  · have hrange := exec_of_check hlength (raiseIf_of_not (not_not.mpr hlen) _)
    have hout := h.resolve_left (not_not.mpr hlen)
    exact raises_of_check hrange (raiseIf_of (by omega) _)
  · exact raises_of_check hlength (raiseIf_of hlen _)

/-- Settles O45: the slot check, the checks of the signature, and the verdict, in their order. -/
theorem verifyDecidesTheSignature : Obligations.VerifyDecidesTheSignature := by
  intro j len s r t e inRange w q sum
  refine ⟨raises_of_empty_kp (exec_verify_selOf j len s), verify_raises_of_malformed, fun hvalid hlen hin => ?_⟩
  obtain ⟨hr, hrn, ht, htn⟩ := hin
  have hexec := exec_verify_of_valid hvalid hlen ⟨hr, hrn⟩ ⟨ht, htn⟩
  exact completesTo_of_ok _ s _ _ hexec ⟨rfl, rfl, verdict_iff, keeps_complete s _ _ (keeps_setOk s _)⟩

end Verdict

end Sys2Proof.Machine

/-! PROOF. `NOP` is the life cycle of a command and nothing else (O12). -/

namespace Sys2Proof.Machine

section Nop

/-- The pseudocode of `NOP` is empty: it ends at once, in the state it began in (46_control.md R270). -/
theorem exec_nop (s : State) : exec .nop s = s.conclude (.ok s) := by rfl

/-- Settles O12: the state `NOP` ends in is the old one, and completing a command keeps every part of it. -/
theorem nopOnlyCompletes : Obligations.NopOnlyCompletes := by
  intro s
  have hkeeps : Keeps s s.complete [] := keeps_complete s s [] (keeps_refl s [])
  exact completesTo_of_ok .nop s s _ (exec_nop s) hkeeps

end Nop

end Sys2Proof.Machine

/-! PROOF. The life cycle of a command: the write of `CMD` that starts it, the step that runs it, and the word `STATUS`
reads when it has ended (O5, O7, O8). -/

namespace Sys2Proof.Machine

section LifeCycle

variable (s : State)

/-- Settles O5: either way the engine has the turn, on a state whose latched word decodes to the command. -/
theorem stepRunsTheDecodedCommand : Obligations.StepRunsTheDecodedCommand := by
  intro s i hbusy hdecode
  refine ⟨fun hagenda => ?_, fun rest hagenda => ?_⟩
  · rw [step_engine s hagenda, engineTurn_busy s i hbusy hdecode]
  · rw [step_turn s .engine rest hagenda]
    exact engineTurn_busy (s.setAgenda rest) i hbusy hdecode

/-- Acceptance writes the latched word, `STATUS` and `FLAGS`, and no data state (60_exceptions.md R280). -/
theorem keeps_accept (v : Word32) : Keeps s (s.accept v) [.flags, .settings] := by
  intro q hq
  cases q <;> simp_all [Part.same]

/-- Settles O7: an idle core accepts whatever is written to `CMD`, a busy core drops it. -/
theorem commandWriteIsAcceptedWhenIdle : Obligations.CommandWriteIsAcceptedWhenIdle := by
  intro s v
  refine ⟨fun hidle => ?_, fun hbusy => memWrite_busy hbusy (by decide)⟩
  rw [memWrite_cmd v hidle]
  exact ⟨rfl, rfl, rfl, rfl, rfl, rfl, rfl, rfl, rfl, rfl, rfl, keeps_accept s v⟩

/-- A field above a byte is that field shifted past it. -/
theorem append_eq_shift_or (hi lo : Byte) : 0#16 ++ hi ++ lo = (hi.setWidth 32 <<< 8) ||| lo.setWidth 32 := by
  ext k hk
  simp only [BitVec.getElem_append, BitVec.getElem_or, BitVec.getElem_shiftLeft, BitVec.getElem_setWidth]
  grind

/-- `STATUS` reads `ERRCODE` shifted past its low byte, or the four outcome bits in that byte (10_state.md R35). -/
theorem statusWord_eq_shift_or :
    s.statusWord = (s.status.errcode.setWidth 32 <<< 8) ||| (0#4 ++ BitVec.ofBool s.status.wrdrop ++
      BitVec.ofBool s.status.err ++ BitVec.ofBool s.status.done ++ BitVec.ofBool s.busy : Byte).setWidth 32 := by
  rw [← append_eq_shift_or, State.statusWord]
  simp only [BitVec.append_assoc, BitVec.cast_eq]

@[simp] theorem complete_busy : s.complete.busy = false := rfl

@[simp] theorem raise_busy (e : CommandError) : (s.raise e).busy = false := rfl

/-- Settles O8: both ends by the definition of `conclude`, their words by the bits that each end fixes. -/
theorem commandsEndInTheStatusWord : Obligations.CommandsEndInTheStatusWord := by
  intro s u e
  refine ⟨⟨u.complete, conclude_ok s u, rfl, ?_⟩, ⟨s.raise e, conclude_error s e, rfl, ?_⟩⟩
  · rw [statusWord_eq_shift_or]
    cases hdrop : u.status.wrdrop <;> simp [hdrop]
  · rw [statusWord_eq_shift_or]
    cases hdrop : s.status.wrdrop <;> simp [hdrop]

end LifeCycle

end Sys2Proof.Machine

/-! PROOF. A command always ends in a next state, and so does every step (O11). -/

namespace Sys2Proof.Machine

section Totality

variable (s : State)

theorem conclude_total (c : Checked State) : ∃ t, s.conclude c = .next t := by
  cases c with
  | ok u => exact ⟨u.complete, conclude_ok s u⟩
  | error e => exact ⟨s.raise e, conclude_error s e⟩

theorem concludeSign_total (found : SignSearch) : ∃ t, s.concludeSign found = .next t := by
  cases found <;> rw [State.concludeSign]
  case signed => exact conclude_total _ _
  case entropyFailed => exact conclude_total _ _
  case waiting after => exact ⟨s.setEntropy after, rfl⟩
  case unending => exact ⟨s, rfl⟩

/-- `SIGN` too answers a next state, though it need not complete (45_ecdsa.md R246). -/
theorem execSign_total (ra : Sel) : ∃ t, execSign ra s = .next t := by
  unfold execSign signWith
  split
  · exact conclude_total s _
  · exact concludeSign_total s _

/-- No command stops the machine: every one but `SIGN` concludes its pseudocode (60_exceptions.md R281, R283). -/
theorem exec_total (i : Instr) : ∃ t, exec i s = .next t := by
  cases i with
  | sign ra => exact execSign_total s ra
  | _ => rw [exec]; exact conclude_total s _

theorem engineTurn_total : ∃ t, engineTurn s = .next t := by
  rcases engineTurn_cases s with ⟨-, hidle⟩ | ⟨i, -, -, hexec⟩ | ⟨-, -, -, hillegal⟩
  · exact ⟨s, hidle⟩
  · rw [hexec]
    exact exec_total s i
  · exact ⟨_, hillegal⟩

/-- Settles O11: the engine's turn by the totality of the commands, every other turn by its definition. -/
theorem stepNeverStops : Obligations.StepNeverStops := by
  intro s
  cases hturns : s.env.agenda with
  | nil => exact step_engine s hturns ▸ engineTurn_total s
  | cons turn rest =>
    rw [step_turn s turn rest hturns]
    cases turn with
    | host a => exact ⟨_, rfl⟩
    | engine => exact engineTurn_total _
    | entropySource a => exact ⟨_, rfl⟩
    | hardwareReset => exact ⟨_, rfl⟩

end Totality

end Sys2Proof.Machine

/-! PROOF. The errors each check of a command can raise, and with them the codes each command can end with (O9). -/

namespace Sys2Proof.Machine

section ChecksRaise

/-- Whatever error a check raises is one of a list. -/
def RaisesOnly {α : Type} (errors : List CommandError) (check : Checked α) : Prop :=
  ∀ e, check = .error e → e ∈ errors

variable {α β : Type} {errors : List CommandError} {e : CommandError}

theorem raisesOnly_ok (a : α) : RaisesOnly errors (.ok a) := fun _ h => nomatch h

theorem raisesOnly_error (he : e ∈ errors) : RaisesOnly errors (.error e : Checked α) := by
  rintro _ ⟨⟩
  exact he

/-- A check followed by the rest of a command raises no more than the two of them. -/
theorem RaisesOnly.bind {x : Checked α} {f : α → Checked β} (hx : RaisesOnly errors x)
    (hf : ∀ a, RaisesOnly errors (f a)) : RaisesOnly errors (x >>= f) := by
  intro e h
  rcases (checked_bind_error x f e).mp h with hcheck | ⟨a, -, hrest⟩
  · exact hx e hcheck
  · exact hf a e hrest

/-- A `w` selector in range raises nothing (30_encoding.md R92). -/
theorem raisesOnly_wSel {r : Sel} (hr : Sel.isW r = true) : RaisesOnly errors (wSel r) := by
  rw [wSel_of_lt r (of_decide_eq_true hr)]
  exact raisesOnly_ok _

/-- A slot selector in range raises nothing (30_encoding.md R92). -/
theorem raisesOnly_slotSel {r : Sel} (hr : Sel.isSlot r = true) : RaisesOnly errors (slotSel r) := by
  rw [slotSel_of_lt r (of_decide_eq_true hr)]
  exact raisesOnly_ok _

theorem raisesOnly_raiseIf {c : Prop} [Decidable c] (he : e ∈ errors) : RaisesOnly errors (raiseIf c e) := by
  intro f h
  obtain ⟨-, rfl⟩ := (raiseIf_error c e f).mp h
  exact he

theorem raisesOnly_reducedOperand {m : Modulus} {v : Word256} (he : .invalidOperand ∈ errors) :
    RaisesOnly errors (reducedOperand m v) := by
  intro e h
  obtain ⟨-, rfl⟩ := (reducedOperand_error m v e).mp h
  exact he

theorem raisesOnly_pointOperand {r : PointReg} (he : .pointNotOnCurve ∈ errors) :
    RaisesOnly errors (pointOperand r) := by
  intro e h
  obtain ⟨-, rfl⟩ := (pointOperand_error r e).mp h
  exact he

theorem raisesOnly_privOperand {k : PrivSlot} (he : .keyNotValid ∈ errors) : RaisesOnly errors (privOperand k) := by
  intro e h
  obtain ⟨-, rfl⟩ := (privOperand_error k e).mp h
  exact he

theorem raisesOnly_pubOperand {k : PubSlot} (he : .keyNotValid ∈ errors) : RaisesOnly errors (pubOperand k) := by
  intro e h
  obtain ⟨-, rfl⟩ := (pubOperand_error k e).mp h
  exact he

/-- Point validation raises for the curve or for the subgroup (42_point_arithmetic.md R176). -/
theorem raisesOnly_validated {x y : Nat} (hcurve : .pointNotOnCurve ∈ errors) (hgroup : .invalidSubgroup ∈ errors) :
    RaisesOnly errors (validated x y) := by
  unfold validated
  split
  · exact raisesOnly_ok _
  · exact raisesOnly_error hcurve
  · exact raisesOnly_error hgroup

/-- Inversion raises at zero alone (40_field_arithmetic.md R126). -/
theorem raisesOnly_checkedInv {m : Modulus} {a : Nat} (he : .invalidOperand ∈ errors) :
    RaisesOnly errors (checkedInv m a) := by
  unfold checkedInv
  split
  · exact raisesOnly_error he
  · exact raisesOnly_ok _

/-- The nonce modes 0 and 3 select no strategy (44_nonce_source.md R221). -/
theorem raisesOnly_nonceStrategy {mode : BitVec 2} (he : .nonceModeUnselected ∈ errors) :
    RaisesOnly errors (nonceStrategy mode) := by
  unfold nonceStrategy
  split
  · exact raisesOnly_ok _
  · split
    · exact raisesOnly_ok _
    · exact raisesOnly_error he

end ChecksRaise

section CommandErrors

/-- What `STATUS` says of an ended command: no error, or one of a list with its code (60_exceptions.md R282, R283). -/
def ReportsOnly (errors : List CommandError) (t : State) : Prop :=
  (t.status.err = false ∧ t.status.errcode = 0#8) ∨ (t.status.err = true ∧ ∃ e ∈ errors, t.status.errcode = e.code)

variable {errors : List CommandError} {s t : State}

theorem reportsOnly_complete (u : State) : ReportsOnly errors u.complete := .inl ⟨rfl, rfl⟩

theorem reportsOnly_raise (s : State) {e : CommandError} (he : e ∈ errors) : ReportsOnly errors (s.raise e) :=
  .inr ⟨rfl, e, he, rfl⟩

/-- A command reports no error but those its checks can raise. -/
theorem reportsOnly_of_conclude {c : Checked State} (hc : RaisesOnly errors c) (h : s.conclude c = .next t) :
    ReportsOnly errors t := by
  rcases conclude_next s t c h with ⟨u, -, rfl⟩ | ⟨e, he, rfl⟩
  · exact reportsOnly_complete u
  · exact reportsOnly_raise s (hc e he)

theorem modBinary_reportsOnly {m : Modulus} {rd ra rb : Sel} {f : Nat → Nat → Nat}
    (hwf : (Sel.isW rd && Sel.isW ra && Sel.isW rb) = true) (he : .invalidOperand ∈ errors)
    (h : modBinary m rd ra rb s f = .next t) : ReportsOnly errors t := by
  simp only [Bool.and_eq_true] at hwf
  obtain ⟨⟨hd, hi⟩, hj⟩ := hwf
  refine reportsOnly_of_conclude ?_ h
  exact (raisesOnly_wSel hd).bind fun _ => (raisesOnly_wSel hi).bind fun _ => (raisesOnly_wSel hj).bind fun _ =>
    (raisesOnly_reducedOperand he).bind fun _ => (raisesOnly_reducedOperand he).bind fun _ => raisesOnly_ok _

theorem modUnary_reportsOnly {m : Modulus} {rd ra : Sel} {f : Nat → Checked Nat}
    (hwf : (Sel.isW rd && Sel.isW ra) = true) (he : .invalidOperand ∈ errors) (hf : ∀ a, RaisesOnly errors (f a))
    (h : modUnary m rd ra s f = .next t) : ReportsOnly errors t := by
  obtain ⟨hd, hi⟩ := Bool.and_eq_true_iff.mp hwf
  refine reportsOnly_of_conclude ?_ h
  exact (raisesOnly_wSel hd).bind fun _ => (raisesOnly_wSel hi).bind fun _ =>
    (raisesOnly_reducedOperand he).bind fun a => (hf a).bind fun _ => raisesOnly_ok _

theorem execNop_reportsOnly (h : execNop s = .next t) : ReportsOnly (errorsOf .nop) t :=
  reportsOnly_of_conclude (raisesOnly_ok s) h

theorem execFeq_reportsOnly {m : Modulus} {ra rb : Sel} (hwf : (Instr.feq m ra rb).wellFormed = true)
    (h : execFeq m ra rb s = .next t) : ReportsOnly (errorsOf (.feq m ra rb)) t := by
  obtain ⟨ha, hb⟩ := Bool.and_eq_true_iff.mp hwf
  refine reportsOnly_of_conclude ?_ h
  exact (raisesOnly_wSel ha).bind fun _ => (raisesOnly_wSel hb).bind fun _ =>
    (raisesOnly_reducedOperand (by simp [errorsOf])).bind fun _ =>
    (raisesOnly_reducedOperand (by simp [errorsOf])).bind fun _ => raisesOnly_ok _

theorem execMulw_reportsOnly {ra rb : Sel} (hwf : (Instr.mulw ra rb).wellFormed = true)
    (h : execMulw ra rb s = .next t) : ReportsOnly (errorsOf (.mulw ra rb)) t := by
  obtain ⟨ha, hb⟩ := Bool.and_eq_true_iff.mp hwf
  refine reportsOnly_of_conclude ?_ h
  exact (raisesOnly_wSel ha).bind fun _ => (raisesOnly_wSel hb).bind fun _ => raisesOnly_ok _

theorem execBred_reportsOnly {m : Modulus} {rd : Sel} (hwf : (Instr.bred m rd).wellFormed = true)
    (h : execBred m rd s = .next t) : ReportsOnly (errorsOf (.bred m rd)) t := by
  refine reportsOnly_of_conclude ?_ h
  exact (raisesOnly_wSel hwf).bind fun _ => raisesOnly_ok _

theorem execPadd_reportsOnly {rd ra rb : Sel} (hwf : (Instr.padd rd ra rb).wellFormed = true)
    (h : execPadd rd ra rb s = .next t) : ReportsOnly (errorsOf (.padd rd ra rb)) t := by
  simp only [Instr.wellFormed, Bool.and_eq_true] at hwf
  obtain ⟨⟨ha, hb⟩, hc⟩ := hwf
  refine reportsOnly_of_conclude ?_ h
  exact (raisesOnly_slotSel ha).bind fun _ => (raisesOnly_slotSel hb).bind fun _ =>
    (raisesOnly_slotSel hc).bind fun _ => (raisesOnly_pointOperand (by simp [errorsOf])).bind fun _ =>
    (raisesOnly_pointOperand (by simp [errorsOf])).bind fun _ => raisesOnly_ok _

theorem execPdbl_reportsOnly {rd ra : Sel} (hwf : (Instr.pdbl rd ra).wellFormed = true)
    (h : execPdbl rd ra s = .next t) : ReportsOnly (errorsOf (.pdbl rd ra)) t := by
  obtain ⟨ha, hb⟩ := Bool.and_eq_true_iff.mp hwf
  refine reportsOnly_of_conclude ?_ h
  exact (raisesOnly_slotSel ha).bind fun _ => (raisesOnly_slotSel hb).bind fun _ =>
    (raisesOnly_pointOperand (by simp [errorsOf])).bind fun _ => raisesOnly_ok _

theorem execPmul_reportsOnly {rd ra rb : Sel} (hwf : (Instr.pmul rd ra rb).wellFormed = true)
    (h : execPmul rd ra rb s = .next t) : ReportsOnly (errorsOf (.pmul rd ra rb)) t := by
  simp only [Instr.wellFormed, Bool.and_eq_true] at hwf
  obtain ⟨⟨ha, hb⟩, hc⟩ := hwf
  refine reportsOnly_of_conclude ?_ h
  exact (raisesOnly_slotSel ha).bind fun _ => (raisesOnly_slotSel hb).bind fun _ => (raisesOnly_wSel hc).bind fun _ =>
    (raisesOnly_pointOperand (by simp [errorsOf])).bind fun _ => raisesOnly_ok _

theorem execPchk_reportsOnly {ra : Sel} (hwf : (Instr.pchk ra).wellFormed = true)
    (h : execPchk ra s = .next t) : ReportsOnly (errorsOf (.pchk ra)) t := by
  refine reportsOnly_of_conclude ?_ h
  exact (raisesOnly_slotSel hwf).bind fun _ => (raisesOnly_raiseIf (by simp [errorsOf])).bind fun _ =>
    (raisesOnly_validated (by simp [errorsOf]) (by simp [errorsOf])).bind fun _ => raisesOnly_ok _

theorem execPldg_reportsOnly {rd : Sel} (hwf : (Instr.pldg rd).wellFormed = true)
    (h : execPldg rd s = .next t) : ReportsOnly (errorsOf (.pldg rd)) t := by
  refine reportsOnly_of_conclude ?_ h
  exact (raisesOnly_slotSel hwf).bind fun _ => raisesOnly_ok _

theorem execImppriv_reportsOnly {rd : Sel} {len : Byte} (hwf : (Instr.imppriv rd len).wellFormed = true)
    (h : execImppriv rd len s = .next t) : ReportsOnly (errorsOf (.imppriv rd len)) t := by
  refine reportsOnly_of_conclude ?_ h
  exact (raisesOnly_slotSel hwf).bind fun _ => (raisesOnly_raiseIf (by simp [errorsOf])).bind fun _ =>
    (raisesOnly_raiseIf (by simp [errorsOf])).bind fun _ => raisesOnly_ok _

theorem execImppub_reportsOnly {rd : Sel} {len : Byte} (hwf : (Instr.imppub rd len).wellFormed = true)
    (h : execImppub rd len s = .next t) : ReportsOnly (errorsOf (.imppub rd len)) t := by
  refine reportsOnly_of_conclude ?_ h
  exact (raisesOnly_slotSel hwf).bind fun _ => (raisesOnly_raiseIf (by simp [errorsOf])).bind fun _ =>
    (raisesOnly_raiseIf (by simp [errorsOf])).bind fun _ =>
    (raisesOnly_validated (by simp [errorsOf]) (by simp [errorsOf])).bind fun _ => raisesOnly_ok _

theorem execExppriv_reportsOnly {ra : Sel} (hwf : (Instr.exppriv ra).wellFormed = true)
    (h : execExppriv ra s = .next t) : ReportsOnly (errorsOf (.exppriv ra)) t := by
  refine reportsOnly_of_conclude ?_ h
  exact (raisesOnly_slotSel hwf).bind fun _ => (raisesOnly_privOperand (by simp [errorsOf])).bind fun _ =>
    raisesOnly_ok _

theorem execExppub_reportsOnly {ra : Sel} (hwf : (Instr.exppub ra).wellFormed = true)
    (h : execExppub ra s = .next t) : ReportsOnly (errorsOf (.exppub ra)) t := by
  refine reportsOnly_of_conclude ?_ h
  exact (raisesOnly_slotSel hwf).bind fun _ => (raisesOnly_pubOperand (by simp [errorsOf])).bind fun _ =>
    raisesOnly_ok _

theorem execDerive_reportsOnly {rd ra : Sel} (hwf : (Instr.derive rd ra).wellFormed = true)
    (h : execDerive rd ra s = .next t) : ReportsOnly (errorsOf (.derive rd ra)) t := by
  obtain ⟨ha, hb⟩ := Bool.and_eq_true_iff.mp hwf
  refine reportsOnly_of_conclude ?_ h
  exact (raisesOnly_slotSel ha).bind fun _ => (raisesOnly_slotSel hb).bind fun _ =>
    (raisesOnly_privOperand (by simp [errorsOf])).bind fun _ => raisesOnly_ok _

theorem execDispose_reportsOnly {rd : Sel} (hwf : (Instr.dispose rd).wellFormed = true)
    (h : execDispose rd s = .next t) : ReportsOnly (errorsOf (.dispose rd)) t := by
  refine reportsOnly_of_conclude ?_ h
  exact (raisesOnly_slotSel hwf).bind fun _ => raisesOnly_ok _

theorem execVerify_reportsOnly {ra : Sel} {len : Byte} (hwf : (Instr.verify ra len).wellFormed = true)
    (h : execVerify ra len s = .next t) : ReportsOnly (errorsOf (.verify ra len)) t := by
  refine reportsOnly_of_conclude ?_ h
  exact (raisesOnly_slotSel hwf).bind fun _ => (raisesOnly_pubOperand (by simp [errorsOf])).bind fun _ =>
    (raisesOnly_raiseIf (by simp [errorsOf])).bind fun _ => (raisesOnly_raiseIf (by simp [errorsOf])).bind fun _ =>
    raisesOnly_ok _

/-- A `SIGN` that has ended has signed or reports the entropy failure; while it waits it has not ended
(45_ecdsa.md R244, R246). -/
theorem concludeSign_reportsOnly {found : SignSearch} (he : .entropyUnavailable ∈ errors) (hbusy : s.seq = .busy)
    (h : s.concludeSign found = .next t) (hidle : t.seq = .idle) : ReportsOnly errors t := by
  cases found <;> obtain rfl := Host.Outcome.next.inj h
  case signed => exact reportsOnly_complete _
  case entropyFailed => exact reportsOnly_raise _ he
  case waiting => exact absurd (hbusy.symm.trans hidle) (by simp)
  case unending => exact absurd (hbusy.symm.trans hidle) (by simp)

theorem signOperands_raisesOnly {ra : Sel} (hwf : (Instr.sign ra).wellFormed = true) :
    RaisesOnly (errorsOf (.sign ra)) (signOperands ra s) :=
  (raisesOnly_slotSel hwf).bind fun _ => (raisesOnly_privOperand (by simp [errorsOf])).bind fun _ =>
    (raisesOnly_nonceStrategy (by simp [errorsOf])).bind fun _ => raisesOnly_ok _

theorem execSign_reportsOnly {ra : Sel} (hwf : (Instr.sign ra).wellFormed = true) (hbusy : s.seq = .busy)
    (h : execSign ra s = .next t) (hidle : t.seq = .idle) : ReportsOnly (errorsOf (.sign ra)) t := by
  unfold execSign signWith at h
  split at h
  next e he =>
    obtain rfl := Host.Outcome.next.inj h
    exact reportsOnly_raise s (signOperands_raisesOnly hwf e he)
  next => exact concludeSign_reportsOnly (by simp [errorsOf]) hbusy h hidle

/-- Settles O9: command by command, the checks of its pseudocode raise only the errors of its row. -/
theorem commandsEndOnlyWithTheirErrors : Obligations.CommandsEndOnlyWithTheirErrors := by
  intro i s t hwf hbusy h hidle
  cases i with
  | nop => exact execNop_reportsOnly h
  | fadd => exact modBinary_reportsOnly hwf (by simp [errorsOf]) h
  | fsub => exact modBinary_reportsOnly hwf (by simp [errorsOf]) h
  | fmul => exact modBinary_reportsOnly hwf (by simp [errorsOf]) h
  | finv => exact modUnary_reportsOnly hwf (by simp [errorsOf]) (fun _ => raisesOnly_checkedInv (by simp [errorsOf])) h
  | feq => exact execFeq_reportsOnly hwf h
  | mulw => exact execMulw_reportsOnly hwf h
  | bred => exact execBred_reportsOnly hwf h
  | mmul => exact modBinary_reportsOnly hwf (by simp [errorsOf]) h
  | mtom => exact modUnary_reportsOnly hwf (by simp [errorsOf]) (fun _ => raisesOnly_ok _) h
  | mfrom => exact modUnary_reportsOnly hwf (by simp [errorsOf]) (fun _ => raisesOnly_ok _) h
  | padd => exact execPadd_reportsOnly hwf h
  | pdbl => exact execPdbl_reportsOnly hwf h
  | pmul => exact execPmul_reportsOnly hwf h
  | pchk => exact execPchk_reportsOnly hwf h
  | pldg => exact execPldg_reportsOnly hwf h
  | imppriv => exact execImppriv_reportsOnly hwf h
  | imppub => exact execImppub_reportsOnly hwf h
  | exppriv => exact execExppriv_reportsOnly hwf h
  | exppub => exact execExppub_reportsOnly hwf h
  | derive => exact execDerive_reportsOnly hwf h
  | dispose => exact execDispose_reportsOnly hwf h
  | sign => exact execSign_reportsOnly hwf hbusy h hidle
  | verify => exact execVerify_reportsOnly hwf h

end CommandErrors

end Sys2Proof.Machine

/-! PROOF. The soft reset, and the entropy request a reset abandons (O53). -/

namespace Sys2Proof.Machine

section AbandonedRequest

variable {e : EntropySource} {a : EntropyAnswer} {rest : List EntropyAnswer}

/-- With no request outstanding there is nothing to abandon (70_reset_and_hazards.md R322). -/
theorem abandonRequest_of_not_outstanding (hout : e.outstanding = false) : e.abandonRequest = e := by
  simp [EntropySource.abandonRequest, hout]

/-- The answer of an abandoned request is the first one ready, if any has come (70_reset_and_hazards.md R322). -/
theorem abandonRequest_of_ready (hout : e.outstanding = true) (hans : e.answers = a :: rest) :
    e.abandonRequest = { e with outstanding := false, answers := rest } := by
  simp [EntropySource.abandonRequest, hout, hans]

/-- If none has come, one more answer is still to be discarded (70_reset_and_hazards.md R322). -/
theorem abandonRequest_of_awaited (hout : e.outstanding = true) (hans : e.answers = []) :
    e.abandonRequest = { e with outstanding := false, abandoned := e.abandoned + 1 } := by
  simp [EntropySource.abandonRequest, hout, hans]

theorem abandonRequest_outstanding (e : EntropySource) : e.abandonRequest.outstanding = false := by
  cases hout : e.outstanding with
  | false => rw [abandonRequest_of_not_outstanding hout, hout]
  | true =>
    cases hans : e.answers with
    | nil => rw [abandonRequest_of_awaited hout hans]
    | cons a rest => rw [abandonRequest_of_ready hout hans]

/-- While abandoned requests are owed answers, an answer that comes is not made ready (44_nonce_source.md R222). -/
theorem supply_answers_of_abandoned (hab : e.abandoned ≠ 0) : (e.supply a).answers = e.answers := by
  simp [EntropySource.supply, hab]

/-- An answer that comes only after the reset is discarded too (70_reset_and_hazards.md R322). -/
theorem supply_abandonRequest_of_awaited (hout : e.outstanding = true) (hans : e.answers = []) :
    (e.abandonRequest.supply a).answers = [] := by
  rw [abandonRequest_of_awaited hout hans, supply_answers_of_abandoned (Nat.succ_ne_zero _), hans]

end AbandonedRequest

section SoftReset

/-- A write of `CTRL` with bit 0 set is the reset of the core, busy or idle (10_state.md R39). -/
theorem memWrite_ctrl_set (s : State) {v : Word32} (hv : v.getLsbD 0 = true) : s.memWrite 0x018 v = s.resetCore := by
  unfold State.memWrite
  rw [if_pos rfl, if_pos hv]

/-- Settles O53: the write answers the state of the reset input, whose core is that of the reset table and whose
environment differs in the abandoned request alone. -/
theorem softResetIsReset : Obligations.SoftResetIsReset := by
  intro s v hv t
  have ht : t = s.resetCore := memWrite_ctrl_set s hv
  clear_value t
  subst ht
  have hreset : s.resetCore = { State.reset with env := s.resetCore.env } := rfl
  obtain ⟨hw, hacc, -, hks, hkp, hmem, hseq, -⟩ := resetState_values hreset
  obtain ⟨-, -, hstatus, -, hcfg, hinten⟩ := resetState_words hreset
  have hkpValid (i : Fin 4) : s.resetCore.kp[i].valid = false := by rw [hkp]
  exact ⟨rfl, hreset, rfl, rfl, fun i => ⟨hks i, hkpValid i⟩, hw, hacc, hmem, hstatus, hcfg, hinten,
    engineTurn_idle _ hseq, abandonRequest_of_not_outstanding, fun hout => ⟨abandonRequest_outstanding _,
      fun _ _ hans => congrArg EntropySource.answers (abandonRequest_of_ready hout hans),
      fun hans _ => supply_abandonRequest_of_awaited hout hans⟩⟩

end SoftReset

end Sys2Proof.Machine
